-- ==== Sys2Proof/Word.lean ====
section
/-! DEFINITION. The two word types of the block (spec/00_scope.md R7): the byte of every stream and the 16-bit field. -/

namespace Sys2Proof

/-- A byte, 8 bits, bit 0 the least significant (R7). -/
abbrev Byte := BitVec 8

/-- A 16-bit field: `address`, `count`, `index` (R72). -/
abbrev Half := BitVec 16

end Sys2Proof
end

