-- ==== Sys2Proof/Config.lean ====
section
/-! DEFINITION. The parameters of the block (spec/00_scope.md R6), the constants the document gives as literals
(93_implementation_defined.md U10), and the free values: what the spec leaves open has no body here. -/

namespace Sys2Proof

/-- The OPEN parameters of R6, plain data. State carries one such record and nothing changes it (log entry 3). -/
structure Config where
  /-- `CAP_BYTES`: capacity of RAW in bytes; BITS holds `8 * CAP_BYTES` bits (R6, D6). -/
  capBytes : Nat
  /-- `RQ_FRAME_LEN`, read as `CFG_RQLEN` (R32, R114). -/
  rqFrameLen : Half
  /-- `RS_BC_POS`, read as `CFG_BCPOS` (R32, R156). -/
  rsBcPos : Half
  deriving DecidableEq, Repr

/-- The range R6 gives `CAP_BYTES`: 255 to 8191. -/
abbrev Config.wf (c : Config) : Prop := 255 ≤ c.capBytes ∧ c.capBytes ≤ 8191

/-- The values a Response can be constructed from, and what `get_values` can answer (R122, R151): a sequence of
boolean or integer elements, a byte blob, or a value of an unrecognised type. -/
inductive Values where
  | seq (elements : List Byte)
  | blob (bytes : List Byte)
  | other
  deriving DecidableEq, Repr, Inhabited

namespace Config

/-- `COUNT_MIN` (R6). -/
def countMin : Nat := 1
/-- `COUNT_MAX`, read as `CFG_BOUND`; the same for both tags (R6, C1). -/
def countMax : Nat := 2000
/-- The read-coils tag of `FC_SET` (R6). -/
def fcCoils : Byte := 1
/-- The read-discrete-inputs tag of `FC_SET` (R6). -/
def fcDiscrete : Byte := 2
/-- `RQ_BODY_LEN` (R6, R81). -/
def rqBodyLen : Nat := 4
/-- `BC_MAX`: the greatest byte count `RS.ENC` emits (R6, R131). -/
def bcMax : Nat := 255

/-- FREE VALUE (DESIGN CHOICE, safe, log entry 3): `RQ_FRAME_LEN`, which the document names and gives no number. -/
opaque openRqFrameLen : Half
/-- FREE VALUE (DESIGN CHOICE, safe, log entry 3): `RS_BC_POS`, which the document names and gives no number. -/
opaque openRsBcPos : Half

/-- The configuration of `State.reset`: the reference capacity of R6 (DESIGN CHOICE, unsafe for a claim that rests on it, log
entry 3) and the two open values. -/
def reference : Config where
  capBytes := 256
  rqFrameLen := openRqFrameLen
  rsBcPos := openRsBcPos

/-- FREE VALUE (DESIGN CHOICE, safe, log entry 4): what the datastore answers to `validate(fc, address, count)` as query number `n`. -/
opaque dsValidate (n : Nat) (fc : Byte) (address count : Half) : Bool
/-- FREE VALUE (DESIGN CHOICE, safe, log entry 4): what it answers to `get_values(fc, address, count)` as query number `n`. -/
opaque dsGetValues (n : Nat) (fc : Byte) (address count : Half) : Values

end Config

end Sys2Proof
end

