-- ==== Sys2Proof/Syntax.lean ====
section
/-! DEFINITION. The command set: one constructor of Instr per row of spec/opcode_table.json, the opcodes and formats
of 30_encoding.md R71 and R73, and the register names of 10_state.md R33. -/

namespace Sys2Proof

/-- The nineteen opcodes of R73, in the table's order. -/
inductive Opcode where
  | pack | unpack
  | rqNew | rqEnc | rqDec
  | rsClr | rsNew | rsGetBits | rsGetRaw | rsGetBc | rsSetBits | rsSetRaw | rsSetBit | rsRstBit | rsGetBit
  | rsEnc | rsDec
  | execute
  | rdReg
  deriving DecidableEq, Repr

/-- The eight command formats of R71. -/
inductive Format where
  | n | f | g | i | v | r | l | k
  deriving DecidableEq, Repr

/-- One command with its operand fields as they stand in the stream (R71). A payload is its bytes: `len` is their number,
and whether a byte is an element or data is the command's rule (R71, R80). Reserved field values (R75) are kept,
because a command that holds one is consumed whole and faults when executed. -/
inductive Instr where
  /-- `PACK` (R104). -/
  | pack (elements : List Byte)
  /-- `UNPACK` (R105). -/
  | unpack (raw : List Byte)
  /-- `RQ.NEW` (R110). -/
  | rqNew (fc : Byte) (address count : Half)
  /-- `RQ.ENC` (R111). -/
  | rqEnc
  /-- `RQ.DEC` (R112). -/
  | rqDec (data : List Byte)
  /-- `RS.CLR` (R121). -/
  | rsClr (fc : Byte)
  /-- `RS.NEW` (R122). -/
  | rsNew (fc kind : Byte) (payload : List Byte)
  /-- `RS.GETBITS` (R123). -/
  | rsGetBits
  /-- `RS.GETRAW` (R124). -/
  | rsGetRaw
  /-- `RS.GETBC` (R125). -/
  | rsGetBc
  /-- `RS.SETBITS` (R126). -/
  | rsSetBits (elements : List Byte)
  /-- `RS.SETRAW` (R127). -/
  | rsSetRaw (raw : List Byte)
  /-- `RS.SETBIT` (R128). -/
  | rsSetBit (index : Half) (value : Byte)
  /-- `RS.RSTBIT` (R129). -/
  | rsRstBit (index : Half)
  /-- `RS.GETBIT` (R130). -/
  | rsGetBit (index : Half)
  /-- `RS.ENC` (R131). -/
  | rsEnc
  /-- `RS.DEC` (R132). -/
  | rsDec (data : List Byte)
  /-- `EXEC` (R150). -/
  | execute
  /-- `RDREG` (R153). -/
  | rdReg (reg : Byte)
  deriving DecidableEq, Repr

/-- The twelve registers of the `RDREG` map (R33). -/
inductive Reg where
  | rqCtl | rqAddr | rqCount | rsCtl | rsBlen | rsRlen | rsBc | errStat | cfgCap | cfgBound | cfgRqLen | cfgBcPos
  deriving DecidableEq, Repr

end Sys2Proof
end

