-- ==== Sys2Proof/Machine/State.lean ====
section
/-! DEFINITION. The state of the block (spec/10_state.md R20), the three ports kept beside it (R34), the state after
reset (R38), and the reasons a step can stop. -/

namespace Sys2Proof.Machine

/-- The eight faults of 60_exceptions.md R171 to R178. -/
inductive Cause where
  | framing | construction | range | index | capacity | noInst | illOperand | illCmd
  deriving DecidableEq, Repr

/-- The two exception outcomes of `EXEC`, which are not faults (R179, R180). -/
inductive ExcOutcome where
  | illegalAddress | illegalValue
  deriving DecidableEq, Repr

/-- The status of a result record: the three ways a command ends (R170, R79). -/
inductive Status where
  | ok
  | exc (outcome : ExcOutcome)
  | fault (cause : Cause)
  deriving DecidableEq, Repr

/-- One result record of `RES` (R78); `rlen` is the payload's length. -/
structure Record where
  status : Status
  payload : List Byte
  deriving DecidableEq, Repr

/-- The two queries of the datastore port (R86). -/
inductive DsKind where
  | validate | getValues
  deriving DecidableEq, Repr

/-- One query the block has sent on `DS` (R86). -/
structure DsQuery where
  kind : DsKind
  fc : Byte
  address : Half
  count : Half
  deriving DecidableEq, Repr

/-- The whole state: R20's record, then the ports of R34, then the configuration of R32. -/
structure State where
  /-- `RQ_V` (R22). -/
  rqV : Bool
  /-- `RQ_FC` (R22). -/
  rqFc : Byte
  /-- `RQ_ADDR` (R21). -/
  rqAddr : Half
  /-- `RQ_COUNT` (R21). -/
  rqCount : Half
  /-- `RS_V` (R24). -/
  rsV : Bool
  /-- `RS_FC` (R24). -/
  rsFc : Byte
  /-- `BV`, `BLEN`, `BITS`: the bits view, `none` when not held (R20, R25). -/
  bits : Option (List Bool)
  /-- `RV`, `RLEN`, `RAW`: the raw view, `none` when not held (R20, R26). -/
  raw : Option (List Byte)
  /-- `CV`, `BC`: the cached byte count, `none` when not held (R20, R27). -/
  bc : Option Nat
  /-- `ERR`: sticky fault cause bits (R30). -/
  err : Byte
  /-- `HALTED` (R31). -/
  halted : Bool
  /-- `pc`: command bytes consumed since reset (R23). -/
  pc : Nat
  /-- The `CMD` stream: bytes supplied and not consumed (R34, R70). -/
  cmd : List Byte
  /-- The `RES` stream: records emitted, oldest first (R34, R78). -/
  res : List Record
  /-- `DS`: answers to `validate` the datastore has ready, next first (R34, R151; log entry 4). -/
  dsValidateIn : List Bool
  /-- `DS`: answers to `get_values` the datastore has ready, next first (R34, R151; log entry 4). -/
  dsValuesIn : List Values
  /-- `DS`: the queries the block has sent, oldest first (R34, R86; log entry 10). -/
  dsQueries : List DsQuery
  /-- The model's own field (DESIGN CHOICE, safe, log entry 4): how many queries have been made; it makes each free answer a fresh one. -/
  dsTick : Nat
  /-- The configuration constants (R6, R32; log entry 3). -/
  cfg : Config
  deriving DecidableEq, Repr

/-- Why a step does not happen. Each is a stuck state of the spec; all three are SAFE: the model stops where the block
has no step. -/
inductive Fault where
  /-- `HALTED = 1`: the block has no step until reset (R185). Raised by `step` only. Safe. -/
  | halted
  /-- The command stream is empty: the block waits for a command byte (R201, R203). Raised by `step` only. Safe. -/
  | awaitingCommand
  /-- The stream holds the beginning of a command: the block holds for the missing bytes (R77). Raised by `step` only.
  Safe. -/
  | incompleteCommand
  deriving DecidableEq, Repr

/-- Instructions without a meaning. -/
inductive Refusal where
  /-- Raised by an arm of `exec` whose instruction has no meaning yet; no arm does. Safe. -/
  | notModelled (mnemonic : String)
  deriving DecidableEq, Repr

/-- The state of R38 under a configuration, with nothing yet on any port (DESIGN CHOICE, log entries 4, 8, 10). -/
def State.resetWith (cfg : Config) : State where
  rqV := false
  rqFc := 0
  rqAddr := 0
  rqCount := 0
  rsV := false
  rsFc := 0
  bits := none
  raw := none
  bc := none
  err := 0
  halted := false
  pc := 0
  cmd := []
  res := []
  dsValidateIn := []
  dsValuesIn := []
  dsQueries := []
  dsTick := 0
  cfg := cfg

/-- The machine right after reset (R38), with the reference capacity of R6. -/
def State.reset : State := State.resetWith Config.reference

end Sys2Proof.Machine
end

