-- ==== Sys2Proof/Machine/Codec.lean ====
section
/-! DEFINITION. The bit codec: the pure functions pack and unpack (spec/40_bit_codec.md R100, R101). -/

namespace Sys2Proof.Machine

/-- The byte of the packed form that holds bit `i` (R63). -/
def byteIndex (i : Nat) : Nat := i / 8

/-- The place of bit `i` in its byte (R63). -/
def bitInByte (i : Nat) : Nat := i % 8

/-- The number whose bit `k` is element `k` of the sequence, least significant first (R52). -/
def bitsValue : List Bool → Nat
  | [] => 0
  | b :: rest => b.toNat + 2 * bitsValue rest

/-- How many bytes a sequence of `n` bits packs into: `ceil(n / 8)` (R53, R100). -/
def packedLength (n : Nat) : Nat := (n + 7) / 8

/-- Byte `j` of the packed form: bit `k` is `b[8 * j + k]`, and 0 beyond the end (R100). -/
def packByte (b : List Bool) (j : Nat) : Byte := BitVec.ofNat 8 (bitsValue ((b.drop (8 * j)).take 8))

/-- `pack` (R100). -/
def pack (b : List Bool) : List Byte := (List.range (packedLength b.length)).map (packByte b)

/-- `unpack`: exactly `8 * len` bits, never truncated (R101). -/
def unpack (r : List Byte) : List Bool :=
  (List.range (8 * r.length)).map fun i => (r.getD (byteIndex i) 0).getLsbD (bitInByte i)

end Sys2Proof.Machine
end

