-- ==== Sys2Proof/WellFormed.lean ====
section
/-! DEFINITION. Which commands have an encoding: a payload's length must fit its 16-bit `len` field (spec/30_encoding.md
R71, R72). Every other field is as wide as its type. -/

namespace Sys2Proof

/-- A payload whose length fits the `len` field: 0 to 65535 bytes (R72). -/
def payloadFits (payload : List Byte) : Bool := decide (payload.length ≤ 65535)

/-- A command that some byte string encodes. -/
def Instr.wellFormed : Instr → Bool
  | .pack e => payloadFits e
  | .unpack r => payloadFits r
  | .rqNew _ _ _ => true
  | .rqEnc => true
  | .rqDec d => payloadFits d
  | .rsClr _ => true
  | .rsNew _ _ p => payloadFits p
  | .rsGetBits => true
  | .rsGetRaw => true
  | .rsGetBc => true
  | .rsSetBits e => payloadFits e
  | .rsSetRaw r => payloadFits r
  | .rsSetBit _ _ => true
  | .rsRstBit _ => true
  | .rsGetBit _ => true
  | .rsEnc => true
  | .rsDec d => payloadFits d
  | .execute => true
  | .rdReg _ => true

end Sys2Proof
end

