-- ==== Sys2Proof/Decode.lean ====
section
/-! DEFINITION. The command decoder (spec/30_encoding.md R70 to R77), total on any byte string, and the encoder written
from the same tables; then the words of spec/opcode_table.json laid out as a command. -/

namespace Sys2Proof

/-- `be16(v)`: a 16-bit number as two bytes, high byte first (R7, R51). -/
def be16 (v : Nat) : List Byte := [BitVec.ofNat 8 (v / 256), BitVec.ofNat 8 (v % 256)]

/-- `unbe16(h, l) = 256 * h + l` (R7, R72). -/
def unbe16 (h l : Byte) : Nat := 256 * h.toNat + l.toNat

/-- A 16-bit field from its two bytes (R72). -/
def half (h l : Byte) : Half := BitVec.ofNat 16 (unbe16 h l)

/-- The opcode byte of R73. -/
def Opcode.code : Opcode → Byte
  | .pack => 0x10
  | .unpack => 0x11
  | .rqNew => 0x20
  | .rqEnc => 0x21
  | .rqDec => 0x22
  | .rsClr => 0x30
  | .rsNew => 0x31
  | .rsGetBits => 0x32
  | .rsGetRaw => 0x33
  | .rsGetBc => 0x34
  | .rsSetBits => 0x35
  | .rsSetRaw => 0x36
  | .rsSetBit => 0x37
  | .rsRstBit => 0x38
  | .rsGetBit => 0x39
  | .rsEnc => 0x3A
  | .rsDec => 0x3B
  | .execute => 0x40
  | .rdReg => 0x50

/-- The format of R73. -/
def Opcode.format : Opcode → Format
  | .pack => .l
  | .unpack => .l
  | .rqNew => .r
  | .rqEnc => .n
  | .rqDec => .l
  | .rsClr => .f
  | .rsNew => .k
  | .rsGetBits => .n
  | .rsGetRaw => .n
  | .rsGetBc => .n
  | .rsSetBits => .l
  | .rsSetRaw => .l
  | .rsSetBit => .v
  | .rsRstBit => .i
  | .rsGetBit => .i
  | .rsEnc => .n
  | .rsDec => .l
  | .execute => .n
  | .rdReg => .g

/-- The rows of the opcode map, in its order (R73). -/
def opcodeRows : List Opcode :=
  [.pack, .unpack, .rqNew, .rqEnc, .rqDec, .rsClr, .rsNew, .rsGetBits, .rsGetRaw, .rsGetBc, .rsSetBits, .rsSetRaw,
   .rsSetBit, .rsRstBit, .rsGetBit, .rsEnc, .rsDec, .execute, .rdReg]

/-- The row that a command's first byte selects; none for the 237 illegal values (R73, R74). -/
def Opcode.ofByte (b : Byte) : Option Opcode := opcodeRows.find? fun o => o.code == b

/-- The length of a command that begins with these bytes, `none` for an illegal opcode (R76). A byte of the length field
that has not arrived counts as zero, which the true length can only exceed (DESIGN CHOICE, safe, log entry 17). -/
def commandLength (bs : List Byte) : Option Nat :=
  (Opcode.ofByte (bs.getD 0 0)).map fun o =>
    match o.format with
    | .n => 1
    | .f => 2
    | .g => 2
    | .i => 3
    | .v => 4
    | .r => 6
    | .l => 3 + unbe16 (bs.getD 1 0) (bs.getD 2 0)
    | .k => 5 + unbe16 (bs.getD 3 0) (bs.getD 4 0)

/-- What the decoder finds at the head of the stream: a whole command and the rest, too few bytes (R77), or an illegal
opcode (R74). -/
inductive Decoded where
  | command (i : Instr) (rest : List Byte)
  | incomplete
  | illegal (opcode : Byte)
  deriving DecidableEq, Repr

/-- A length field's payload: `n` bytes and the rest, if they have arrived (R76, R77). -/
def decodePayload (n : Nat) (mk : List Byte → Instr) (bs : List Byte) : Decoded :=
  if bs.length < n then .incomplete else .command (mk (bs.take n)) (bs.drop n)

/-- The operand bytes of format `F` or `G`: one byte (R71). -/
def decodeByte (mk : Byte → Instr) : List Byte → Decoded
  | b :: rest => .command (mk b) rest
  | _ => .incomplete

/-- The operand bytes of format `I`: a 16-bit index (R71). -/
def decodeIndex (mk : Half → Instr) : List Byte → Decoded
  | h :: l :: rest => .command (mk (half h l)) rest
  | _ => .incomplete

/-- The operand bytes of format `V`: a 16-bit index and a value byte (R71). -/
def decodeIndexValue (mk : Half → Byte → Instr) : List Byte → Decoded
  | h :: l :: v :: rest => .command (mk (half h l) v) rest
  | _ => .incomplete

/-- The operand bytes of format `R`: `fc`, address, count (R71). -/
def decodeRequest (mk : Byte → Half → Half → Instr) : List Byte → Decoded
  | fc :: ah :: al :: ch :: cl :: rest => .command (mk fc (half ah al) (half ch cl)) rest
  | _ => .incomplete

/-- The operand bytes of format `L`: a 16-bit length and its payload (R71). -/
def decodeLength (mk : List Byte → Instr) : List Byte → Decoded
  | h :: l :: rest => decodePayload (unbe16 h l) mk rest
  | _ => .incomplete

/-- The operand bytes of format `K`: `fc`, `kind`, a 16-bit length and its payload (R71). -/
def decodeConstruct (mk : Byte → Byte → List Byte → Instr) : List Byte → Decoded
  | fc :: kind :: h :: l :: rest => decodePayload (unbe16 h l) (mk fc kind) rest
  | _ => .incomplete

/-- The rest of a command after its opcode byte, in the format of R73. -/
def decodeOperands : Opcode → List Byte → Decoded
  | .pack, bs => decodeLength .pack bs
  | .unpack, bs => decodeLength .unpack bs
  | .rqNew, bs => decodeRequest .rqNew bs
  | .rqEnc, bs => .command .rqEnc bs
  | .rqDec, bs => decodeLength .rqDec bs
  | .rsClr, bs => decodeByte .rsClr bs
  | .rsNew, bs => decodeConstruct .rsNew bs
  | .rsGetBits, bs => .command .rsGetBits bs
  | .rsGetRaw, bs => .command .rsGetRaw bs
  | .rsGetBc, bs => .command .rsGetBc bs
  | .rsSetBits, bs => decodeLength .rsSetBits bs
  | .rsSetRaw, bs => decodeLength .rsSetRaw bs
  | .rsSetBit, bs => decodeIndexValue .rsSetBit bs
  | .rsRstBit, bs => decodeIndex .rsRstBit bs
  | .rsGetBit, bs => decodeIndex .rsGetBit bs
  | .rsEnc, bs => .command .rsEnc bs
  | .rsDec, bs => decodeLength .rsDec bs
  | .execute, bs => .command .execute bs
  | .rdReg, bs => decodeByte .rdReg bs

/-- The decoder (R76, R77): a legal command followed by the rest, or incomplete, or an illegal opcode. -/
def decode : List Byte → Decoded
  | [] => .incomplete
  | b :: rest =>
    match Opcode.ofByte b with
    | some o => decodeOperands o rest
    | none => .illegal b

/-- The opcode of a command. -/
def Instr.opcode : Instr → Opcode
  | .pack _ => .pack
  | .unpack _ => .unpack
  | .rqNew _ _ _ => .rqNew
  | .rqEnc => .rqEnc
  | .rqDec _ => .rqDec
  | .rsClr _ => .rsClr
  | .rsNew _ _ _ => .rsNew
  | .rsGetBits => .rsGetBits
  | .rsGetRaw => .rsGetRaw
  | .rsGetBc => .rsGetBc
  | .rsSetBits _ => .rsSetBits
  | .rsSetRaw _ => .rsSetRaw
  | .rsSetBit _ _ => .rsSetBit
  | .rsRstBit _ => .rsRstBit
  | .rsGetBit _ => .rsGetBit
  | .rsEnc => .rsEnc
  | .rsDec _ => .rsDec
  | .execute => .execute
  | .rdReg _ => .rdReg

/-- `cmdlen`: how many bytes a command takes (R71, R76). -/
def Instr.byteLength : Instr → Nat
  | .pack e => 3 + e.length
  | .unpack r => 3 + r.length
  | .rqNew _ _ _ => 6
  | .rqEnc => 1
  | .rqDec d => 3 + d.length
  | .rsClr _ => 2
  | .rsNew _ _ p => 5 + p.length
  | .rsGetBits => 1
  | .rsGetRaw => 1
  | .rsGetBc => 1
  | .rsSetBits e => 3 + e.length
  | .rsSetRaw r => 3 + r.length
  | .rsSetBit _ _ => 4
  | .rsRstBit _ => 3
  | .rsGetBit _ => 3
  | .rsEnc => 1
  | .rsDec d => 3 + d.length
  | .execute => 1
  | .rdReg _ => 2

/-- A length field and its payload (R71). -/
def encodePayload (p : List Byte) : List Byte := be16 p.length ++ p

/-- The bytes after the opcode (R71). -/
def encodeOperands : Instr → List Byte
  | .pack e => encodePayload e
  | .unpack r => encodePayload r
  | .rqNew fc a c => fc :: (be16 a.toNat ++ be16 c.toNat)
  | .rqEnc => []
  | .rqDec d => encodePayload d
  | .rsClr fc => [fc]
  | .rsNew fc kind p => fc :: kind :: encodePayload p
  | .rsGetBits => []
  | .rsGetRaw => []
  | .rsGetBc => []
  | .rsSetBits e => encodePayload e
  | .rsSetRaw r => encodePayload r
  | .rsSetBit i v => be16 i.toNat ++ [v]
  | .rsRstBit i => be16 i.toNat
  | .rsGetBit i => be16 i.toNat
  | .rsEnc => []
  | .rsDec d => encodePayload d
  | .execute => []
  | .rdReg r => [r]

/-- The bytes of a command (R71, R73). -/
def encode (i : Instr) : List Byte := i.opcode.code :: encodeOperands i

/-- `k` bytes of a number, the least significant first: how spec/opcode_table.json numbers a row's bits, so that the
first byte is the opcode byte. -/
def wordBytes : Nat → Nat → List Byte
  | 0, _ => []
  | k + 1, w => BitVec.ofNat 8 w :: wordBytes k (w / 256)

/-- A table word as bytes of the command stream, with zero bytes up to the command's length (log entry 9). -/
def tableBytes (nbits w : Nat) : List Byte :=
  let head := wordBytes ((nbits + 7) / 8) w
  head ++ List.replicate ((commandLength head).getD 0 - head.length) 0

/-- The instruction the decoder reads from a table word (a fixed name of the host's). -/
def decodeTableWord (nbits w : Nat) : Option Instr :=
  match decode (tableBytes nbits w) with
  | .command i _ => some i
  | .incomplete => none
  | .illegal _ => none

end Sys2Proof
end

