-- ==== Sys2Proof/Machine/Flags.lean ====
section
/-! DEFINITION. Status codes and ERR bits (spec/30_encoding.md R78, R79), the flags and lengths as registers, and the
register map of `RDREG` (10_state.md R33). -/

namespace Sys2Proof.Machine

/-- The `ERR` bit of a fault (R30, R79). -/
def Cause.errIndex : Cause → Nat
  | .framing => 0
  | .construction => 1
  | .range => 2
  | .index => 3
  | .capacity => 4
  | .noInst => 5
  | .illOperand => 6
  | .illCmd => 7

/-- The `ERR` register with one cause's bit set and no other (R30). -/
def Cause.errBit (c : Cause) : Byte := BitVec.twoPow 8 c.errIndex

/-- The halting fault is `ILLCMD` alone (R178). -/
def Cause.halts : Cause → Bool
  | .framing => false
  | .construction => false
  | .range => false
  | .index => false
  | .capacity => false
  | .noInst => false
  | .illOperand => false
  | .illCmd => true

/-- The status byte of a record (R79). -/
def Status.code : Status → Byte
  | .ok => 0x00
  | .exc .illegalAddress => 0x02
  | .exc .illegalValue => 0x03
  | .fault .framing => 0x81
  | .fault .construction => 0x82
  | .fault .range => 0x83
  | .fault .index => 0x84
  | .fault .capacity => 0x85
  | .fault .noInst => 0x86
  | .fault .illOperand => 0x87
  | .fault .illCmd => 0x88

/-- A record as it crosses `RES`: status, 16-bit big-endian length, payload (R78). -/
def Record.bytes (r : Record) : List Byte := r.status.code :: (be16 r.payload.length ++ r.payload)

/-- A query as it crosses `DS`: `fc`, address, count (R86). -/
def DsQuery.bytes (q : DsQuery) : List Byte := q.fc :: (be16 q.address.toNat ++ be16 q.count.toNat)

/-- `BV` (R25). -/
def State.bv (s : State) : Bool := s.bits.isSome

/-- `RV` (R26). -/
def State.rv (s : State) : Bool := s.raw.isSome

/-- `CV` (R27). -/
def State.cv (s : State) : Bool := s.bc.isSome

/-- `BLEN`: 0 while the bits view is not held (R25). -/
def State.blen (s : State) : Nat := (s.bits.getD []).length

/-- `RLEN`: 0 while the raw view is not held (R26). -/
def State.rlen (s : State) : Nat := (s.raw.getD []).length

/-- `BC`: 0 while the cached count is not held (R27). -/
def State.bcReg (s : State) : Nat := s.bc.getD 0

/-- `RQ_CTL`: bit 0 `RQ_V`, bits 15:8 `RQ_FC`, which reads 0 while there is no instance (R33). -/
def State.rqCtl (s : State) : Half :=
  (if s.rqV then s.rqFc else 0) ++ (0 : BitVec 7) ++ BitVec.ofBool s.rqV

/-- `RS_CTL`: bits 0 to 3 `RS_V`, `BV`, `RV`, `CV`, bits 15:8 `RS_FC`, which reads 0 while there is no instance (R33). -/
def State.rsCtl (s : State) : Half :=
  (if s.rsV then s.rsFc else 0) ++ (0 : BitVec 4) ++ BitVec.ofBool s.cv ++ BitVec.ofBool s.rv ++ BitVec.ofBool s.bv
    ++ BitVec.ofBool s.rsV

/-- What each register of the map reads as (R33); `RQ_ADDR` and `RQ_COUNT` read 0 while there is no instance (R21). -/
def State.readReg (s : State) : Reg → Nat
  | .rqCtl => s.rqCtl.toNat
  | .rqAddr => if s.rqV then s.rqAddr.toNat else 0
  | .rqCount => if s.rqV then s.rqCount.toNat else 0
  | .rsCtl => s.rsCtl.toNat
  | .rsBlen => s.blen
  | .rsRlen => s.rlen
  | .rsBc => s.bcReg
  | .errStat => s.err.toNat
  | .cfgCap => s.cfg.capBytes
  | .cfgBound => Config.countMax
  | .cfgRqLen => s.cfg.rqFrameLen.toNat
  | .cfgBcPos => s.cfg.rsBcPos.toNat

end Sys2Proof.Machine
end

