-- ==== Sys2Proof/Machine/Operands.lean ====
section
/-! DEFINITION. How operand bytes are read and results written (spec/30_encoding.md R72, R75, R80; 10_state.md R33). -/

namespace Sys2Proof.Machine

/-- An element byte as a bit: 0x00 is false, every other value true (R8, R80). -/
def truth (e : Byte) : Bool := e != 0

/-- A bit as an element byte: 0x00 or 0x01 (R8, R80). -/
def elem (b : Bool) : Byte := if b then 1 else 0

/-- An element string as a bit sequence (R80). -/
def bitsOfElements (e : List Byte) : List Bool := e.map truth

/-- A bit sequence as an element string (R80). -/
def elementsOfBits (b : List Bool) : List Byte := b.map elem

/-- `FC_SET`: the legal function-code tags (R6, R75). -/
def legalFc (fc : Byte) : Bool := fc == Config.fcCoils || fc == Config.fcDiscrete

/-- The values that a `kind` byte and a payload stand for: 0 an element string, 1 a byte string, any other an
unrecognised type (R86, R122). -/
def valuesOfKind (kind : Byte) (payload : List Byte) : Values :=
  if kind == 0 then .seq payload else if kind == 1 then .blob payload else .other

/-- The register a `reg` byte names; none for the reserved numbers 0x0C to 0xFF (R33, R75). -/
def regOfByte (b : Byte) : Option Reg :=
  match b.toNat with
  | 0x00 => some .rqCtl
  | 0x01 => some .rqAddr
  | 0x02 => some .rqCount
  | 0x03 => some .rsCtl
  | 0x04 => some .rsBlen
  | 0x05 => some .rsRlen
  | 0x06 => some .rsBc
  | 0x07 => some .errStat
  | 0x08 => some .cfgCap
  | 0x09 => some .cfgBound
  | 0x0A => some .cfgRqLen
  | 0x0B => some .cfgBcPos
  | _ => none

end Sys2Proof.Machine
end

