-- ==== Sys2Proof/Machine/Ops.lean ====
section
/-! DEFINITION. The named operations the meanings share: emitting a record, taking a fault (spec/60_exceptions.md R183),
ending a command (R170), the two instances and the two views (42_response_frame.md R120), the datastore port (R86, R151),
and what the environment can do (70_reset_and_hazards.md R200). There is no return from a fault (R184): the block
takes the next command. -/

namespace Sys2Proof.Machine

/-- How a command ends (R170): normally with a result payload and a new state, with an exception outcome, or with a
fault. The last two carry no state, because they change no data state. -/
inductive CmdEnd where
  | ret (payload : List Byte) (t : State)
  | exc (outcome : ExcOutcome)
  | raise (cause : Cause)
  deriving DecidableEq, Repr

/-- Emit one result record on `RES` (R78). -/
def emit (r : Record) (s : State) : State := { s with res := s.res ++ [r] }

/-- Fault entry (R183): the sticky bit is set, the record with no payload is emitted, `ILLCMD` halts, and nothing else
changes. `pc` has been moved by the step already, except for `ILLCMD`. -/
def takeFault (c : Cause) (s : State) : State :=
  { s with err := s.err ||| c.errBit, halted := s.halted || c.halts, res := s.res ++ [⟨.fault c, []⟩] }

/-- End a command that began in `s` (R8, R170, R183): a return keeps the writes made in `t`, an exception outcome and a
fault discard them. -/
def finish (s : State) : CmdEnd → State
  | .ret payload t => emit ⟨.ok, payload⟩ t
  | .exc outcome => emit ⟨.exc outcome, []⟩ s
  | .raise cause => takeFault cause s

/-- Run a command's body to its end: always a next state. -/
def complete (s : State) (e : CmdEnd) : Host.Outcome State Fault Refusal := .next (finish s e)

/-- Move past a whole command: its bytes leave the stream and `pc` advances by its length (R23, R70). -/
def advance (i : Instr) (rest : List Byte) (s : State) : State := { s with pc := s.pc + i.byteLength, cmd := rest }

/-- Take the halting fault of an illegal opcode (R74, R178): nothing is consumed. -/
def takeIllegal (s : State) : State := takeFault .illCmd s

/-- The stuck state a step finds when the stream holds no whole command (R77, R201). -/
def holdFault (s : State) : Fault := if s.cmd.isEmpty then .awaitingCommand else .incompleteCommand

/-- The two data fields of the request frame (R21, R112). -/
def setRequestFields (address count : Half) (s : State) : State := { s with rqAddr := address, rqCount := count }

/-- A new request instance (R110). -/
def openRequest (fc : Byte) (address count : Half) (s : State) : State :=
  { s with rqV := true, rqFc := fc, rqAddr := address, rqCount := count }

/-- `need_instance` for the request frame (R111, R112, R150). -/
def needRequest (s : State) (e : CmdEnd) : CmdEnd := if s.rqV then e else .raise .noInst

/-- `need_instance` for the response frame (R120). -/
def needResponse (s : State) (e : CmdEnd) : CmdEnd := if s.rsV then e else .raise .noInst

/-- The bits view, computed from the raw view if that alone is held, empty if neither is (R120 `bits_view`). -/
def bitsView (s : State) : List Bool :=
  match s.bits with
  | some b => b
  | none =>
    match s.raw with
    | some r => unpack r
    | none => []

/-- Materialise the bits view (R120 `bits_view`). -/
def holdBits (s : State) : State := { s with bits := some (bitsView s) }

/-- The raw view, computed from the bits view if that alone is held, empty if neither is (R120 `raw_view`). -/
def rawView (s : State) : List Byte :=
  match s.raw with
  | some r => r
  | none =>
    match s.bits with
    | some b => pack b
    | none => []

/-- Materialise the raw view (R120 `raw_view`). -/
def holdRaw (s : State) : State := { s with raw := some (rawView s) }

/-- The byte count, cached or the length of the raw view (R120 `byte_count`). -/
def byteCount (s : State) : Nat :=
  match s.bc with
  | some n => n
  | none => (rawView s).length

/-- Materialise the cached byte count, and the raw view if the count was not cached (R120 `byte_count`). -/
def holdByteCount (s : State) : State :=
  match s.bc with
  | some _ => s
  | none => { holdRaw s with bc := some (rawView s).length }

/-- Replace the bits view from outside: the raw view and the cached count are dropped (R126, R133). -/
def setBits (b : List Bool) (s : State) : State := { s with bits := some b, raw := none, bc := none }

/-- Replace the raw view from outside: the bits view and the cached count are dropped (R127, R133). -/
def setRaw (r : List Byte) (s : State) : State := { s with bits := none, raw := some r, bc := none }

/-- A new response instance with nothing set (R121). -/
def openResponse (fc : Byte) (s : State) : State :=
  { s with rsV := true, rsFc := fc, bits := none, raw := none, bc := none }

/-- A bit sequence that fits BITS: at most `8 * CAP_BYTES` bits (R87). -/
def bitsFit (s : State) (n : Nat) : Bool := decide (n ≤ 8 * s.cfg.capBytes)

/-- A byte string that fits RAW: at most `CAP_BYTES` bytes (R87). -/
def rawFits (s : State) (n : Nat) : Bool := decide (n ≤ s.cfg.capBytes)

/-- Construct a response instance from values (R122, R150 step 3). -/
def construct (fc : Byte) (v : Values) (s : State) : CmdEnd :=
  match v with
  | .other => .raise .construction
  | .seq e => if bitsFit s e.length then .ret [] (setBits (bitsOfElements e) (openResponse fc s)) else .raise .capacity
  | .blob r => if rawFits s r.length then .ret [] (setRaw r (openResponse fc s)) else .raise .capacity

/-- Write one bit of the bits view; the raw view and the cached count are dropped (R128). -/
def writeBit (index : Half) (value : Bool) (s : State) : CmdEnd :=
  if index.toNat < (bitsView s).length then .ret [] (setBits ((bitsView s).set index.toNat value) s)
  else .raise .index

/-- The answer to `validate`: the next one the datastore has ready, else a free value (R151; log entry 4). -/
def validateAnswer (s : State) : Bool :=
  match s.dsValidateIn with
  | a :: _ => a
  | [] => Config.dsValidate s.dsTick s.rqFc s.rqAddr s.rqCount

/-- The answer to `get_values`: the next one the datastore has ready, else a free value (R151; log entry 4). -/
def valuesAnswer (s : State) : Values :=
  match s.dsValuesIn with
  | v :: _ => v
  | [] => Config.dsGetValues s.dsTick s.rqFc s.rqAddr s.rqCount

/-- A query about the current request (R86). -/
def dsQuery (kind : DsKind) (s : State) : DsQuery := ⟨kind, s.rqFc, s.rqAddr, s.rqCount⟩

/-- Send the `validate` query and take its answer from the port (R86, R150 step 2). -/
def askValidate (s : State) : State :=
  { s with dsValidateIn := s.dsValidateIn.tail, dsTick := s.dsTick + 1, dsQueries := s.dsQueries ++ [dsQuery .validate s] }

/-- Send the `get_values` query and take its answer from the port (R86, R150 step 3). -/
def askGetValues (s : State) : State :=
  { s with dsValuesIn := s.dsValuesIn.tail, dsTick := s.dsTick + 1, dsQueries := s.dsQueries ++ [dsQuery .getValues s] }

/-- Step 1 of `EXEC`: `COUNT_MIN ≤ count ≤ COUNT_MAX` (R150). -/
def countInRange (count : Half) : Bool := decide (Config.countMin ≤ count.toNat ∧ count.toNat ≤ Config.countMax)

/-- ENVIRONMENT: the host writes bytes to `CMD` (R70). -/
def hostWrite (bs : List Byte) (s : State) : State := { s with cmd := s.cmd ++ bs }

/-- ENVIRONMENT: the reset event (R200, R201). Records and queries already emitted stay emitted; the configuration and the
datastore's own answers are not the block's to change (DESIGN CHOICE, log entry 8). -/
def hostReset (s : State) : State :=
  { State.resetWith s.cfg with
    res := s.res, dsValidateIn := s.dsValidateIn, dsValuesIn := s.dsValuesIn, dsQueries := s.dsQueries, dsTick := s.dsTick }

/-- ENVIRONMENT: the datastore makes ready the one-byte answer to a coming `validate`: 0x00 is false (R86). -/
def hostDsValidate (answer : Byte) (s : State) : State := { s with dsValidateIn := s.dsValidateIn ++ [truth answer] }

/-- ENVIRONMENT: the datastore makes ready the answer to a coming `get_values`: a kind byte and a payload (R86). -/
def hostDsValues (kind : Byte) (payload : List Byte) (s : State) : State :=
  { s with dsValuesIn := s.dsValuesIn ++ [valuesOfKind kind payload] }

end Sys2Proof.Machine
end

