-- ==== Sys2Proof/Machine/BitCodec.lean ====
section
/-! DEFINITION. Family 40, the bit codec commands (spec/40_bit_codec.md). -/

namespace Sys2Proof.Machine

/-- `PACK` (R104). -/
def execPack (e : List Byte) (s : State) : Host.Outcome State Fault Refusal :=
  complete s (if bitsFit s e.length then .ret (pack (bitsOfElements e)) s else .raise .capacity)

/-- `UNPACK` (R105). -/
def execUnpack (r : List Byte) (s : State) : Host.Outcome State Fault Refusal :=
  complete s (if rawFits s r.length then .ret (elementsOfBits (unpack r)) s else .raise .capacity)

end Sys2Proof.Machine
end

