-- ==== Sys2Proof/Machine/ExecSystem.lean ====
section
/-! DEFINITION. Family 43, the execution logic and the system command (spec/43_execute_and_system.md). -/

namespace Sys2Proof.Machine

/-- `EXEC` (R150): count, then `validate`, then `get_values`, then the constructor of R122. What has been asked of the
datastore stays asked whatever follows; the frames change only on status `OK`. -/
def execExec (s : State) : Host.Outcome State Fault Refusal :=
  if s.rqV then
    if countInRange s.rqCount then
      if validateAnswer s then
        complete (askGetValues (askValidate s))
          (construct s.rqFc (valuesAnswer (askValidate s)) (askGetValues (askValidate s)))
      else complete (askValidate s) (.exc .illegalAddress)
    else complete s (.exc .illegalValue)
  else complete s (.raise .noInst)

/-- `RDREG` (R153): no state changes. -/
def execRdReg (reg : Byte) (s : State) : Host.Outcome State Fault Refusal :=
  complete s <|
    match regOfByte reg with
    | some r => .ret (be16 (s.readReg r)) s
    | none => .raise .illOperand

end Sys2Proof.Machine
end

