-- ==== Sys2Proof/Machine/RequestFrame.lean ====
section
/-! DEFINITION. Family 41, the request frame (spec/41_request_frame.md). -/

namespace Sys2Proof.Machine

/-- The four bytes of a request body as its two fields; none for any other length (R81, R112). -/
def requestFields (data : List Byte) : Option (Half × Half) :=
  match data with
  | [a, b, c, d] => some (half a b, half c d)
  | _ => none

/-- The request body: big-endian address, then big-endian count (R81, R111). -/
def requestBody (address count : Half) : List Byte := be16 address.toNat ++ be16 count.toNat

/-- `RQ.NEW` (R110): the count is not validated here (R115). -/
def execRqNew (fc : Byte) (address count : Half) (s : State) : Host.Outcome State Fault Refusal :=
  complete s (if legalFc fc then .ret [] (openRequest fc address count s) else .raise .illOperand)

/-- `RQ.ENC` (R111). -/
def execRqEnc (s : State) : Host.Outcome State Fault Refusal :=
  complete s (needRequest s (.ret (requestBody s.rqAddr s.rqCount) s))

/-- `RQ.DEC` (R112): the tag is kept, and a framing fault changes neither field. -/
def execRqDec (data : List Byte) (s : State) : Host.Outcome State Fault Refusal :=
  complete s <| needRequest s <|
    match requestFields data with
    | some (address, count) => .ret [] (setRequestFields address count s)
    | none => .raise .framing

end Sys2Proof.Machine
end

