-- ==== Sys2Proof/Machine/ResponseFrame.lean ====
section
/-! DEFINITION. Family 42, the response frame (spec/42_response_frame.md). The order of the tests is that of
60_exceptions.md R182. -/

namespace Sys2Proof.Machine

/-- `RS.CLR` (R121). -/
def execRsClr (fc : Byte) (s : State) : Host.Outcome State Fault Refusal :=
  complete s (if legalFc fc then .ret [] (openResponse fc s) else .raise .illOperand)

/-- `RS.NEW` (R122). -/
def execRsNew (fc kind : Byte) (payload : List Byte) (s : State) : Host.Outcome State Fault Refusal :=
  complete s (if legalFc fc then construct fc (valuesOfKind kind payload) s else .raise .illOperand)

/-- `RS.GETBITS` (R123). -/
def execRsGetBits (s : State) : Host.Outcome State Fault Refusal :=
  complete s (needResponse s (.ret (elementsOfBits (bitsView s)) (holdBits s)))

/-- `RS.GETRAW` (R124). -/
def execRsGetRaw (s : State) : Host.Outcome State Fault Refusal :=
  complete s (needResponse s (.ret (rawView s) (holdRaw s)))

/-- `RS.GETBC` (R125). -/
def execRsGetBc (s : State) : Host.Outcome State Fault Refusal :=
  complete s (needResponse s (.ret (be16 (byteCount s)) (holdByteCount s)))

/-- `RS.SETBITS` (R126). -/
def execRsSetBits (e : List Byte) (s : State) : Host.Outcome State Fault Refusal :=
  complete s <|
    if bitsFit s e.length then needResponse s (.ret [] (setBits (bitsOfElements e) s)) else .raise .capacity

/-- `RS.SETRAW` (R127). -/
def execRsSetRaw (r : List Byte) (s : State) : Host.Outcome State Fault Refusal :=
  complete s (if rawFits s r.length then needResponse s (.ret [] (setRaw r s)) else .raise .capacity)

/-- `RS.SETBIT` (R128). -/
def execRsSetBit (index : Half) (value : Byte) (s : State) : Host.Outcome State Fault Refusal :=
  complete s (needResponse s (writeBit index (truth value) s))

/-- `RS.RSTBIT` (R129): R128 with false. -/
def execRsRstBit (index : Half) (s : State) : Host.Outcome State Fault Refusal :=
  complete s (needResponse s (writeBit index false s))

/-- `RS.GETBIT` (R130). -/
def execRsGetBit (index : Half) (s : State) : Host.Outcome State Fault Refusal :=
  complete s <| needResponse s <|
    match (bitsView s)[index.toNat]? with
    | some b => .ret [elem b] (holdBits s)
    | none => .raise .index

/-- `RS.ENC` (R131): the count byte, then the raw view; a count above `BC_MAX` is the `RANGE` fault. -/
def execRsEnc (s : State) : Host.Outcome State Fault Refusal :=
  complete s <| needResponse s <|
    if byteCount s ≤ Config.bcMax then
      .ret (BitVec.ofNat 8 (byteCount s) :: rawView (holdByteCount s)) (holdRaw (holdByteCount s))
    else .raise .range

/-- `RS.DEC` (R132): the first byte is returned and stored nowhere, the rest becomes the raw view. -/
def execRsDec (data : List Byte) (s : State) : Host.Outcome State Fault Refusal :=
  complete s <|
    if data.length ≤ 1 + s.cfg.capBytes then
      needResponse s <|
        match data with
        | declared :: rest => .ret [declared] (setRaw rest s)
        | [] => .raise .framing
    else .raise .capacity

end Sys2Proof.Machine
end

