-- ==== Sys2Proof/Machine/Dispatch.lean ====
section
/-! DEFINITION. The dispatch of a decoded command to its meaning, one arm per command. -/

namespace Sys2Proof.Machine

def exec (i : Instr) (s : State) : Host.Outcome State Fault Refusal :=
  match i with
  | .pack e => Sys2Proof.Machine.execPack e s
  | .unpack r => Sys2Proof.Machine.execUnpack r s
  | .rqNew fc a c => Sys2Proof.Machine.execRqNew fc a c s
  | .rqEnc => Sys2Proof.Machine.execRqEnc s
  | .rqDec d => Sys2Proof.Machine.execRqDec d s
  | .rsClr fc => Sys2Proof.Machine.execRsClr fc s
  | .rsNew fc k p => Sys2Proof.Machine.execRsNew fc k p s
  | .rsGetBits => Sys2Proof.Machine.execRsGetBits s
  | .rsGetRaw => Sys2Proof.Machine.execRsGetRaw s
  | .rsGetBc => Sys2Proof.Machine.execRsGetBc s
  | .rsSetBits e => Sys2Proof.Machine.execRsSetBits e s
  | .rsSetRaw r => Sys2Proof.Machine.execRsSetRaw r s
  | .rsSetBit n v => Sys2Proof.Machine.execRsSetBit n v s
  | .rsRstBit n => Sys2Proof.Machine.execRsRstBit n s
  | .rsGetBit n => Sys2Proof.Machine.execRsGetBit n s
  | .rsEnc => Sys2Proof.Machine.execRsEnc s
  | .rsDec d => Sys2Proof.Machine.execRsDec d s
  | .execute => Sys2Proof.Machine.execExec s
  | .rdReg r => Sys2Proof.Machine.execRdReg r s

end Sys2Proof.Machine
end

