-- ==== Sys2Proof/Machine/Step.lean ====
section
/-! DEFINITION. One step of the block (spec/30_encoding.md R70): decode the command at the head of the stream, move past
it, run its meaning. -/

namespace Sys2Proof.Machine

/-- One step. A halted block has none (R185); an incomplete command or an empty stream has none (R77, R201); an
illegal opcode takes `ILLCMD` (R178). -/
def step (s : State) : Host.Outcome State Fault Refusal :=
  if s.halted then .fault .halted
  else
    match decode s.cmd with
    | .command i rest => exec i (advance i rest s)
    | .incomplete => .fault (holdFault s)
    | .illegal _ => .next (takeIllegal s)

/-- A table word placed where the next step decodes it: at the head of the command stream, the block not halted
(a fixed name of the host's; log entry 9). -/
def State.withFetchWord (s : State) (nbits w : Nat) : State :=
  { s with halted := false, cmd := tableBytes nbits w ++ s.cmd }

end Sys2Proof.Machine
end

