-- ==== Sys2Proof/Machine/Assembly.lean ====
section
/-! DEFINITION. The assembler notation of spec/30_encoding.md R84 and R85: one command per line, a mnemonic and operands
in field order. What is modelled is a line's parts, not its characters (log entry 16). -/

namespace Sys2Proof.Machine

/-- The mnemonic of R73 and R84. -/
def opcodeMnemonic : Opcode → String
  | .pack => "PACK"
  | .unpack => "UNPACK"
  | .rqNew => "RQ.NEW"
  | .rqEnc => "RQ.ENC"
  | .rqDec => "RQ.DEC"
  | .rsClr => "RS.CLR"
  | .rsNew => "RS.NEW"
  | .rsGetBits => "RS.GETBITS"
  | .rsGetRaw => "RS.GETRAW"
  | .rsGetBc => "RS.GETBC"
  | .rsSetBits => "RS.SETBITS"
  | .rsSetRaw => "RS.SETRAW"
  | .rsSetBit => "RS.SETBIT"
  | .rsRstBit => "RS.RSTBIT"
  | .rsGetBit => "RS.GETBIT"
  | .rsEnc => "RS.ENC"
  | .rsDec => "RS.DEC"
  | .execute => "EXEC"
  | .rdReg => "RDREG"

/-- One operand of a line (R84): a number, an element payload in square brackets, a byte payload in braces, and the three
forms of `RS.NEW`'s payload: `bits` with elements, `raw` with bytes, `kind=k` with bytes. -/
inductive AsmOperand where
  | number (n : Nat)
  | elements (e : List Byte)
  | bytes (b : List Byte)
  | bits (e : List Byte)
  | raw (b : List Byte)
  | kindIs (k : Nat) (b : List Byte)
  deriving DecidableEq, Repr

/-- One line: the command and its operands. -/
structure AsmLine where
  command : Opcode
  operands : List AsmOperand
  deriving DecidableEq, Repr

/-- The payload operand of `RS.NEW`: `bits` is kind 0 and `raw` is kind 1 (R84). -/
def asmPayload (kind : Byte) (p : List Byte) : AsmOperand :=
  if kind == 0 then .bits p else if kind == 1 then .raw p else .kindIs kind.toNat p

/-- The operands of a command in field order (R84). -/
def asmOperands : Instr → List AsmOperand
  | .pack e => [.elements e]
  | .unpack r => [.bytes r]
  | .rqNew fc a c => [.number fc.toNat, .number a.toNat, .number c.toNat]
  | .rqEnc => []
  | .rqDec d => [.bytes d]
  | .rsClr fc => [.number fc.toNat]
  | .rsNew fc kind p => [.number fc.toNat, asmPayload kind p]
  | .rsGetBits => []
  | .rsGetRaw => []
  | .rsGetBc => []
  | .rsSetBits e => [.elements e]
  | .rsSetRaw r => [.bytes r]
  | .rsSetBit i v => [.number i.toNat, .number v.toNat]
  | .rsRstBit i => [.number i.toNat]
  | .rsGetBit i => [.number i.toNat]
  | .rsEnc => []
  | .rsDec d => [.bytes d]
  | .execute => []
  | .rdReg r => [.number r.toNat]

/-- A command as a line. -/
def toAsm (i : Instr) : AsmLine := ⟨i.opcode, asmOperands i⟩

/-- A number operand that fits its field of `w` bits. -/
def asmField (w n : Nat) : Option (BitVec w) := if n < 2 ^ w then some (BitVec.ofNat w n) else none

/-- The `kind` and payload an `RS.NEW` operand names (R84). -/
def asmKind : AsmOperand → Option (Byte × List Byte)
  | .bits p => some (0, p)
  | .raw p => some (1, p)
  | .kindIs k p => (asmField 8 k).map fun kind => (kind, p)
  | .number _ => none
  | .elements _ => none
  | .bytes _ => none

/-- The command a line stands for, none where its operands do not fit its format (R84). There are no
pseudo-instructions (R85). -/
def assemble (line : AsmLine) : Option Instr :=
  match line.command, line.operands with
  | .pack, [.elements e] => some (.pack e)
  | .unpack, [.bytes r] => some (.unpack r)
  | .rqNew, [.number fc, .number a, .number c] => do
    let fc ← asmField 8 fc
    let a ← asmField 16 a
    let c ← asmField 16 c
    pure (.rqNew fc a c)
  | .rqEnc, [] => some .rqEnc
  | .rqDec, [.bytes d] => some (.rqDec d)
  | .rsClr, [.number fc] => (asmField 8 fc).map .rsClr
  | .rsNew, [.number fc, p] => do
    let fc ← asmField 8 fc
    let kp ← asmKind p
    pure (.rsNew fc kp.1 kp.2)
  | .rsGetBits, [] => some .rsGetBits
  | .rsGetRaw, [] => some .rsGetRaw
  | .rsGetBc, [] => some .rsGetBc
  | .rsSetBits, [.elements e] => some (.rsSetBits e)
  | .rsSetRaw, [.bytes r] => some (.rsSetRaw r)
  | .rsSetBit, [.number i, .number v] => do
    let i ← asmField 16 i
    let v ← asmField 8 v
    pure (.rsSetBit i v)
  | .rsRstBit, [.number i] => (asmField 16 i).map .rsRstBit
  | .rsGetBit, [.number i] => (asmField 16 i).map .rsGetBit
  | .rsEnc, [] => some .rsEnc
  | .rsDec, [.bytes d] => some (.rsDec d)
  | .execute, [] => some .execute
  | .rdReg, [.number r] => (asmField 8 r).map .rdReg
  | _, _ => none

end Sys2Proof.Machine
end

