-- ==== Sys2Proof/Safety.lean ====
section
/-! DEFINITION. The terms the claims use: what stays the same between two states, the invariants of spec/10_state.md R28
and of the rest of the state, the document's names for the response state (R29), and when a run is finished (R203). -/

namespace Sys2Proof.Machine

/-- The request frame is unchanged. -/
def SameRequest (s t : State) : Prop :=
  t.rqV = s.rqV ∧ t.rqFc = s.rqFc ∧ t.rqAddr = s.rqAddr ∧ t.rqCount = s.rqCount

/-- The response frame is unchanged: the instance, the two views, the cached count. -/
def SameResponse (s t : State) : Prop :=
  t.rsV = s.rsV ∧ t.rsFc = s.rsFc ∧ t.bits = s.bits ∧ t.raw = s.raw ∧ t.bc = s.bc

/-- Nothing has crossed the datastore port. -/
def SameDs (s t : State) : Prop :=
  t.dsValidateIn = s.dsValidateIn ∧ t.dsValuesIn = s.dsValuesIn ∧ t.dsQueries = s.dsQueries ∧ t.dsTick = s.dsTick

/-- The sequencing state, the command stream and the configuration are unchanged. -/
def SameSequencing (s t : State) : Prop := t.pc = s.pc ∧ t.cmd = s.cmd ∧ t.halted = s.halted ∧ t.cfg = s.cfg

/-- The status of the record that was emitted between `s` and `t` is `st`. -/
def Emitted (s t : State) (st : Status) : Prop := ∃ payload, t.res = s.res ++ [⟨st, payload⟩]

/-- A record a command may emit: its length fits 16 bits, and only a normal end has a payload (R78, R79). -/
def Record.WellFormed (r : Record) : Prop := r.payload.length ≤ 65535 ∧ (r.status ≠ .ok → r.payload = [])

/-- The invariants of the block: I1 to I4 of R28 (I5 is the representation's own: an absent view has length 0), the tags
of R22 and R24, `HALTED` against `ERR` bit 7 (R31, R178), and the records of R78. -/
structure State.Inv (s : State) : Prop where
  capacity : s.cfg.wf
  noResponse : s.rsV = false → s.bits = none ∧ s.raw = none ∧ s.bc = none
  countCached : ∀ n, s.bc = some n → ∃ r, s.raw = some r ∧ n = r.length
  viewsAgree : ∀ b r, s.bits = some b → s.raw = some r → r = pack b
  bitsFit : ∀ b, s.bits = some b → b.length ≤ 8 * s.cfg.capBytes
  rawFits : ∀ r, s.raw = some r → r.length ≤ s.cfg.capBytes
  requestTag : s.rqV = true → s.rqFc = 1 ∨ s.rqFc = 2
  responseTag : s.rsV = true → s.rsFc = 1 ∨ s.rsFc = 2
  haltedBit : s.halted = s.err.getLsbD 7
  records : ∀ r ∈ s.res, r.WellFormed

/-- Two states that differ at most in which views of the response are held: the content is the same. -/
structure SameContent (s t : State) : Prop where
  request : SameRequest s t
  present : t.rsV = s.rsV ∧ t.rsFc = s.rsFc
  bits : bitsView t = bitsView s
  raw : rawView t = rawView s
  err : t.err = s.err
  sequencing : SameSequencing s t
  records : t.res = s.res
  ds : SameDs s t

/-- The document's names for the state of a response (R29). -/
inductive DocState where
  | unset
  | hasBits (seq : List Bool)
  | hasRaw (bytes : List Byte)
  /-- One of the last two with the other view cached. -/
  | both (seq : List Bool) (bytes : List Byte)
  deriving DecidableEq, Repr

/-- The response state as a function of the flags; none without an instance (R29). -/
def State.docState (s : State) : Option DocState :=
  if s.rsV then
    match s.bits, s.raw with
    | none, none => some .unset
    | some b, none => some (.hasBits b)
    | none, some r => some (.hasRaw r)
    | some b, some r => some (.both b r)
  else none

/-- A run of the byte string `stream` written after reset is finished in `s` (R203). -/
def Finished (stream : List Byte) (s : State) : Prop := s.pc = stream.length ∧ s.halted = false

end Sys2Proof.Machine
end

