-- ==== Sys2Proof/Certificates/Slice0/Obligations.lean ====
section
/-! DEFINITION. The statements for the provers: what the rules of spec/ say the block does. A state written
`{ s with … }` says the frame too: every field not named is unchanged. -/

open Sys2Proof Sys2Proof.Machine

/-! ### Encoding -/

/-- R104, R110, R122, R128, R153 (their Encoding and Example lines): words written out from the spec decode to the command
they stand for. -/
def Obligations.SpecExampleWordsDecode : Prop :=
  decode [0x10, 0x00, 0x03, 0x01, 0x00, 0x01] = .command (.pack [1, 0, 1]) [] ∧
  decode [0x20, 0x01, 0x00, 0x13, 0x00, 0x25] = .command (.rqNew 1 0x0013 0x0025) [] ∧
  decode [0x31, 0x01, 0x07, 0x00, 0x04, 0x3F, 0x80, 0x00, 0x00] = .command (.rsNew 1 7 [0x3F, 0x80, 0, 0]) [] ∧
  decode [0x37, 0x00, 0x02, 0x01, 0x33] = .command (.rsSetBit 2 1) [0x33] ∧
  decode [0x50, 0x0A] = .command (.rdReg 0x0A) []

/-- R70, R71, R76: a command and whatever follows it decode to that command and what follows it, at every value of every
operand. -/
def Obligations.EncodedCommandDecodesToItself : Prop :=
  ∀ (i : Instr) (rest : List Byte), i.wellFormed = true → decode (encode i ++ rest) = .command i rest

/-- R70, R71, R76: what decodes to a command is that command's encoding; the length is what R76 computes from the bytes. -/
def Obligations.DecodedBytesAreTheEncoding : Prop :=
  ∀ (bs rest : List Byte) (i : Instr), decode bs = .command i rest →
    i.wellFormed = true ∧ bs = encode i ++ rest ∧ (encode i).length = i.byteLength ∧
      commandLength bs = some i.byteLength

/-- R77: the decoder finds a command incomplete exactly when the stream holds fewer bytes than the command's length. That the
length counts length bytes that have not arrived as zero is the model's choice (log entry 17). -/
def Obligations.IncompleteExactlyWhenBytesAreMissing : Prop :=
  ∀ bs : List Byte, decode bs = .incomplete ↔ bs = [] ∨ ∃ n, commandLength bs = some n ∧ bs.length < n

/-- R74, R178: every opcode not in the table of R73 is illegal, and there are 237 of them; the step emits the record, sets
`ERR` bit 7 and `HALTED`, consumes nothing, and the next step is none. That the missing step is the fault `halted` of `step`
is the model's reading (log entry 2). -/
def Obligations.IllegalOpcodeHaltsTheBlock : Prop :=
  (∀ (b : Byte) (rest : List Byte),
    decode (b :: rest) = .illegal b ↔
      b ∉ ([0x10, 0x11, 0x20, 0x21, 0x22, 0x30, 0x31, 0x32, 0x33, 0x34, 0x35, 0x36, 0x37, 0x38, 0x39, 0x3A, 0x3B, 0x40,
        0x50] : List Byte)) ∧
  ((List.range 256).filter fun n => (Opcode.ofByte (BitVec.ofNat 8 n)).isNone).length = 237 ∧
  ∀ (s : State) (b : Byte), s.halted = false → decode s.cmd = .illegal b →
    step s = .next { s with err := s.err ||| 0x80, halted := true, res := s.res ++ [⟨.fault .illCmd, []⟩] } ∧
    ∀ t, step s = .next t → step t = .fault .halted

/-- R84, R85: a line of assembly names exactly one command; no mnemonic stands for two commands. What is modelled is a
line's parts, not its characters (log entry 16). -/
def Obligations.AssemblyLineNamesOneCommand : Prop :=
  (∀ i : Instr, assemble (toAsm i) = some i) ∧
  (∀ o p : Opcode, opcodeMnemonic o = opcodeMnemonic p → o = p)

/-! ### The step -/

/-- R70, R23: a step runs the decoded command after moving past it. That the body runs in a state whose `pc` has moved already
is the model's reading, which no command can observe (log entry 15). -/
def Obligations.StepRunsTheDecodedCommand : Prop :=
  ∀ (s : State) (i : Instr) (rest : List Byte), s.halted = false → decode s.cmd = .command i rest →
    step s = exec i { s with pc := s.pc + i.byteLength, cmd := rest }

/-- R70, R71, R23: where the stream holds the encoding of a well-formed command, the step runs that command, moves `pc` by
its length and leaves the bytes after it. That the body runs in a state whose `pc` has moved already is the model's reading,
which no command can observe (log entry 15). -/
def Obligations.StepRunsTheEncodedCommand : Prop :=
  ∀ (s : State) (i : Instr) (rest : List Byte), s.halted = false → i.wellFormed = true → s.cmd = encode i ++ rest →
    step s = exec i { s with pc := s.pc + (encode i).length, cmd := rest }

/-- R77, R185, R201: the three stuck states, which the model names as faults of the step (log entry 2). A halted block has
no step, whatever the host writes to the stream; with no byte in the stream or with the beginning of a command the block
holds. -/
def Obligations.BlockHoldsWithoutAWholeCommand : Prop :=
  (∀ (s : State) (bs : List Byte), s.halted = true →
    step s = .fault .halted ∧ step (hostWrite bs s) = .fault .halted ∧ (hostReset s).halted = false) ∧
  (∀ s : State, s.halted = false → s.cmd = [] → step s = .fault .awaitingCommand) ∧
  (∀ s : State, s.halted = false → s.cmd ≠ [] → decode s.cmd = .incomplete → step s = .fault .incompleteCommand)

/-- R23, R203: `pc` counts the bytes consumed: what leaves the stream is what `pc` gains; a run of `stream` is finished
exactly when the stream is empty and the block is not halted. -/
def Obligations.PcCountsConsumedBytes : Prop :=
  ∀ s t : State, step s = .next t →
    s.pc ≤ t.pc ∧ t.pc + t.cmd.length = s.pc + s.cmd.length ∧ t.cmd = s.cmd.drop (t.pc - s.pc) ∧
    ∀ stream : List Byte, s.pc + s.cmd.length = stream.length → (Finished stream t ↔ t.cmd = [] ∧ t.halted = false)

/-- R58, R70, R77: a step depends on no byte beyond its own command: bytes the host writes later change nothing of it. -/
def Obligations.LaterBytesDoNotChangeAStep : Prop :=
  ∀ (s t : State) (bs : List Byte), step s = .next t → step (hostWrite bs s) = .next (hostWrite bs t)

/-- R38: what the reset event leaves, in every state; `State.resetWith` is such a state. The records already emitted stay
emitted and the configuration keeps its values. -/
def Obligations.ResetLeavesTheResetValues : Prop :=
  (∀ t : State, (∃ s, t = hostReset s) ∨ (∃ cfg, t = State.resetWith cfg) →
    t.rqV = false ∧ t.rqFc = 0 ∧ t.rqAddr = 0 ∧ t.rqCount = 0 ∧ t.rsV = false ∧ t.bv = false ∧ t.rv = false ∧
    t.cv = false ∧ t.rsFc = 0 ∧ t.blen = 0 ∧ t.rlen = 0 ∧ t.bcReg = 0 ∧ t.bits = none ∧ t.raw = none ∧ t.err = 0 ∧
    t.halted = false ∧ t.pc = 0 ∧ t.cmd = []) ∧
  ∀ s : State, (hostReset s).res = s.res ∧ (hostReset s).cfg = s.cfg

/-! ### Every command -/

/-- R170, R78: every command ends in a next state, in one of three ways, with exactly one record, and its pc, stream,
configuration and `HALTED` are the step's own business. That `EXEC` ends at all assumes that the datastore answers, as R212
asks a claim to say (log entry 5). -/
def Obligations.EveryCommandEmitsOneRecord : Prop :=
  ∀ (i : Instr) (s : State), ∃ (t : State) (r : Record), exec i s = .next t ∧ t.res = s.res ++ [r] ∧
    (r.status ≠ .ok → r.payload = []) ∧ SameSequencing s t ∧
    (∀ o, r.status = .exc o → i = .execute ∧ t.err = s.err ∧ SameRequest s t ∧ SameResponse s t) ∧
    (r.status = .ok → t.err = s.err)

/-- R183: fault entry, over steps: no data state changes, the `ERR` bit is set and no other, the record has no payload,
and `pc` moves past the whole command, except for `ILLCMD`, which leaves it and halts. -/
def Obligations.FaultsArePrecise : Prop :=
  ∀ (s t : State) (c : Cause), step s = .next t → Emitted s t (.fault c) →
    SameRequest s t ∧ SameResponse s t ∧ t.err = s.err ||| BitVec.twoPow 8 (c.errIndex) ∧
    t.res = s.res ++ [⟨.fault c, []⟩] ∧
    (c ≠ .illCmd → t.halted = s.halted ∧ ∃ i rest, decode s.cmd = .command i rest ∧ t.pc = s.pc + i.byteLength) ∧
    (c = .illCmd → t.halted = true ∧ t.pc = s.pc ∧ t.cmd = s.cmd)

/-- R30: `ERR` is sticky, and a step sets a bit exactly when it ends in that bit's fault; only reset clears it. -/
def Obligations.ErrBitsAreSticky : Prop :=
  (∀ (s t : State) (k : Nat), step s = .next t →
    (t.err.getLsbD k = true ↔ s.err.getLsbD k = true ∨ ∃ c : Cause, c.errIndex = k ∧ Emitted s t (.fault c))) ∧
  [Cause.framing, .construction, .range, .index, .capacity, .noInst, .illOperand, .illCmd].map Cause.errIndex
    = [0, 1, 2, 3, 4, 5, 6, 7] ∧
  ∀ s : State, (hostReset s).err = 0

/-- R22, R24: no command clears an instance flag, and the request's tag is written by `RQ.NEW` alone. -/
def Obligations.InstancesPersist : Prop :=
  ∀ (i : Instr) (s t : State), exec i s = .next t →
    (s.rqV = true → t.rqV = true) ∧ (s.rsV = true → t.rsV = true) ∧
    ((∀ fc a c, i ≠ .rqNew fc a c) → t.rqV = s.rqV ∧ t.rqFc = s.rqFc)

/-- R39, R54: the request frame is written by `RQ.NEW` and `RQ.DEC` alone; the codec commands, the request commands and
`RDREG` leave the response frame alone; only `EXEC` reaches the datastore, whose port is told in the model's own queues and
query list (log entries 4, 10). -/
def Obligations.CommandsStayInTheirFamily : Prop :=
  ∀ (i : Instr) (s t : State), exec i s = .next t →
    ((∀ fc a c, i ≠ .rqNew fc a c) → (∀ d, i ≠ .rqDec d) → SameRequest s t) ∧
    (i.opcode ∈ [Opcode.pack, .unpack, .rqNew, .rqEnc, .rqDec, .rdReg] → SameResponse s t) ∧
    (i ≠ .execute → SameDs s t)

/-- R79: the status codes, which are all there are; a status of 0x80 or above is a fault, whose `ERR` bit is the code less
0x81; and the bytes of a record (R78). -/
def Obligations.StatusCodesAreTheTable : Prop :=
  Status.code .ok = 0x00 ∧ Status.code (.exc .illegalAddress) = 0x02 ∧ Status.code (.exc .illegalValue) = 0x03 ∧
  Status.code (.fault .framing) = 0x81 ∧ Status.code (.fault .construction) = 0x82 ∧
  Status.code (.fault .range) = 0x83 ∧ Status.code (.fault .index) = 0x84 ∧ Status.code (.fault .capacity) = 0x85 ∧
  Status.code (.fault .noInst) = 0x86 ∧ Status.code (.fault .illOperand) = 0x87 ∧
  Status.code (.fault .illCmd) = 0x88 ∧
  (∀ st : Status, st.code ∈ ([0x00, 0x02, 0x03, 0x81, 0x82, 0x83, 0x84, 0x85, 0x86, 0x87, 0x88] : List Byte)) ∧
  (∀ st : Status, 0x80 ≤ st.code.toNat ↔ ∃ c, st = .fault c) ∧
  (∀ c : Cause, c.errIndex = (Status.code (.fault c)).toNat - 0x81) ∧
  (∀ r : Record, r.bytes = r.status.code :: (BitVec.ofNat 8 (r.payload.length / 256) ::
    BitVec.ofNat 8 (r.payload.length % 256) :: r.payload))

/-- R80: element bytes. 0x00 is false and every other byte is true; a bit is written as 0x00 or 0x01 and no other value. -/
def Obligations.ElementBytesAreBits : Prop :=
  (∀ e : Byte, truth e = false ↔ e = 0x00) ∧ elem false = 0x00 ∧ elem true = 0x01 ∧ (∀ b, truth (elem b) = b) ∧
  (∀ b : List Bool, ∀ e ∈ elementsOfBits b, e = 0x00 ∨ e = 0x01)

/-- R182: tests 1 to 4 look only at the command's own bytes: outside `EXEC` a command that ends in `ILLOPERAND`,
`CONSTRUCTION` or `CAPACITY` ends so in every state of the same block. -/
def Obligations.OperandFaultsComeBeforeStateFaults : Prop :=
  ∀ (i : Instr) (s t : State) (c : Cause), i ≠ .execute → c ∈ [Cause.illOperand, .construction, .capacity] →
    exec i s = .next t → Emitted s t (.fault c) →
    ∀ s' t' : State, s'.cfg = s.cfg → exec i s' = .next t' → Emitted s' t' (.fault c)

/-! ### The bit codec -/

/-- R100: `pack`. -/
def Obligations.PackPlacesEachBit : Prop :=
  ∀ b : List Bool,
    (pack b).length = (b.length + 7) / 8 ∧
    (∀ j, j < (pack b).length →
      ((pack b).getD j 0).toNat =
        ((List.range 8).map fun k => if b.getD (8 * j + k) false then 2 ^ k else 0).sum) ∧
    (∀ j k, j < (pack b).length → k < 8 → ((pack b).getD j 0).getLsbD k = b.getD (8 * j + k) false) ∧
    pack [] = []

/-- R101: `unpack`. -/
def Obligations.UnpackReadsEachBit : Prop :=
  ∀ r : List Byte,
    (unpack r).length = 8 * r.length ∧
    (∀ i, i < 8 * r.length →
      ((unpack r).getD i false = true ↔ (r.getD (i / 8) 0).toNat / 2 ^ (i % 8) % 2 = 1)) ∧
    unpack [] = []

/-- R102: unpacking what was packed gives the sequence back, padded with false to the next multiple of 8. -/
def Obligations.UnpackOfPackPadsWithFalse : Prop :=
  ∀ b : List Bool, unpack (pack b) = b ++ List.replicate ((8 - b.length % 8) % 8) false

/-- R103: the laws (a) to (f). -/
def Obligations.PackUnpackLaws : Prop :=
  (∀ r, pack (unpack r) = r) ∧
  (∀ b, (pack b).length = (b.length + 7) / 8) ∧ (∀ r, (unpack r).length = 8 * r.length) ∧
  (∀ b : List Bool, b.length % 8 ≠ 0 → pack b = pack (b ++ [false])) ∧
  (∀ b c : List Bool, b.length = c.length → pack b = pack c → b = c) ∧
  (∀ r q : List Byte, unpack r = unpack q → r = q) ∧
  (∀ b c : List Bool, b.length % 8 = 0 → pack (b ++ c) = pack b ++ pack c) ∧
  (∀ (b : List Bool) (i : Nat), i < b.length → (unpack (pack b))[i]? = b[i]?)

/-- R104: `PACK`. -/
def Obligations.PackCommandReturnsThePackedBytes : Prop :=
  ∀ (e : List Byte) (s : State),
    encode (.pack e) = 0x10 :: (be16 e.length ++ e) ∧
    (e.length ≤ 8 * s.cfg.capBytes →
      exec (.pack e) s = .next { s with res := s.res ++ [⟨.ok, pack (e.map truth)⟩] }) ∧
    (8 * s.cfg.capBytes < e.length →
      exec (.pack e) s = .next { s with err := s.err ||| 0x10, res := s.res ++ [⟨.fault .capacity, []⟩] })

/-- R105: `UNPACK`. -/
def Obligations.UnpackCommandReturnsEightBitsPerByte : Prop :=
  ∀ (r : List Byte) (s : State),
    encode (.unpack r) = 0x11 :: (be16 r.length ++ r) ∧
    (r.length ≤ s.cfg.capBytes →
      exec (.unpack r) s = .next { s with res := s.res ++ [⟨.ok, (unpack r).map elem⟩] } ∧
      ((unpack r).map elem).length = 8 * r.length) ∧
    (s.cfg.capBytes < r.length →
      exec (.unpack r) s = .next { s with err := s.err ||| 0x10, res := s.res ++ [⟨.fault .capacity, []⟩] })

/-! ### The request frame -/

/-- R110: `RQ.NEW`. -/
def Obligations.RqNewMakesTheRequest : Prop :=
  ∀ (fc : Byte) (address count : Half) (s : State),
    encode (.rqNew fc address count) = 0x20 :: fc :: (be16 address.toNat ++ be16 count.toNat) ∧
    (fc = 1 ∨ fc = 2 →
      exec (.rqNew fc address count) s = .next { s with
        rqV := true, rqFc := fc, rqAddr := address, rqCount := count, res := s.res ++ [⟨.ok, []⟩] }) ∧
    (fc ≠ 1 ∧ fc ≠ 2 →
      exec (.rqNew fc address count) s =
        .next { s with err := s.err ||| 0x40, res := s.res ++ [⟨.fault .illOperand, []⟩] })

/-- R111: `RQ.ENC`. -/
def Obligations.RqEncReturnsTheBody : Prop :=
  ∀ s : State,
    encode .rqEnc = [0x21] ∧
    (s.rqV = true →
      exec .rqEnc s = .next { s with res := s.res ++ [⟨.ok,
        [BitVec.ofNat 8 (s.rqAddr.toNat / 256), BitVec.ofNat 8 (s.rqAddr.toNat % 256),
         BitVec.ofNat 8 (s.rqCount.toNat / 256), BitVec.ofNat 8 (s.rqCount.toNat % 256)]⟩] }) ∧
    (s.rqV = false →
      exec .rqEnc s = .next { s with err := s.err ||| 0x20, res := s.res ++ [⟨.fault .noInst, []⟩] })

/-- R112: `RQ.DEC`. -/
def Obligations.RqDecTakesExactlyFourBytes : Prop :=
  ∀ (data : List Byte) (s : State),
    encode (.rqDec data) = 0x22 :: (be16 data.length ++ data) ∧
    (s.rqV = false →
      exec (.rqDec data) s = .next { s with err := s.err ||| 0x20, res := s.res ++ [⟨.fault .noInst, []⟩] }) ∧
    (s.rqV = true → data.length ≠ 4 →
      exec (.rqDec data) s = .next { s with err := s.err ||| 0x01, res := s.res ++ [⟨.fault .framing, []⟩] }) ∧
    (s.rqV = true → ∀ a b c d : Byte, data = [a, b, c, d] →
      exec (.rqDec data) s = .next { s with
        rqAddr := BitVec.ofNat 16 (256 * a.toNat + b.toNat), rqCount := BitVec.ofNat 16 (256 * c.toNat + d.toNat),
        res := s.res ++ [⟨.ok, []⟩] })

/-- R113: the two round trips of the request frame. -/
def Obligations.RequestRoundTrip : Prop :=
  (∀ (fc : Byte) (address count : Half) (s : State), fc = 1 ∨ fc = 2 →
    ∃ (t u v : State) (body : List Byte),
      exec (.rqNew fc address count) s = .next t ∧
      exec .rqEnc t = .next u ∧ u.res = t.res ++ [⟨.ok, body⟩] ∧ body.length = 4 ∧
      exec (.rqDec body) u = .next v ∧ v.rqAddr = address ∧ v.rqCount = count) ∧
  (∀ (d : List Byte) (s : State), s.rqV = true → d.length = 4 →
    ∃ t u : State, exec (.rqDec d) s = .next t ∧ exec .rqEnc t = .next u ∧ u.res = t.res ++ [⟨.ok, d⟩])

/-! ### The response frame -/

/-- R120: the helpers `bits_view`, `raw_view` and `byte_count`: what each gives and what it leaves held. -/
def Obligations.HelpersMaterialiseTheViews : Prop :=
  ∀ s : State,
    (∀ b, s.bits = some b → bitsView s = b ∧ holdBits s = s) ∧
    (∀ r, s.bits = none → s.raw = some r → bitsView s = unpack r ∧ holdBits s = { s with bits := some (unpack r) }) ∧
    (s.bits = none → s.raw = none → bitsView s = [] ∧ holdBits s = { s with bits := some [] }) ∧
    (∀ r, s.raw = some r → rawView s = r ∧ holdRaw s = s) ∧
    (∀ b, s.raw = none → s.bits = some b → rawView s = pack b ∧ holdRaw s = { s with raw := some (pack b) }) ∧
    (s.raw = none → s.bits = none → rawView s = [] ∧ holdRaw s = { s with raw := some [] }) ∧
    (∀ n, s.bc = some n → byteCount s = n ∧ holdByteCount s = s) ∧
    (s.bc = none → byteCount s = (rawView s).length ∧
      holdByteCount s = { s with raw := some (rawView s), bc := some (rawView s).length })

/-- R120, R28 (I4): materialising a view never exceeds the buffers. -/
def Obligations.MaterialisedViewsFitTheBuffers : Prop :=
  ∀ s : State, s.Inv → (bitsView s).length ≤ 8 * s.cfg.capBytes ∧ (rawView s).length ≤ s.cfg.capBytes ∧
    byteCount s = (rawView s).length

/-- R121: `RS.CLR`, and what each reader of the fresh response answers right after it. -/
def Obligations.RsClrMakesAnUnsetResponse : Prop :=
  ∀ (fc : Byte) (s : State),
    encode (.rsClr fc) = [0x30, fc] ∧
    (fc = 1 ∨ fc = 2 →
      exec (.rsClr fc) s = .next { s with
        rsV := true, rsFc := fc, bits := none, raw := none, bc := none, res := s.res ++ [⟨.ok, []⟩] }) ∧
    (fc ≠ 1 ∧ fc ≠ 2 →
      exec (.rsClr fc) s = .next { s with err := s.err ||| 0x40, res := s.res ++ [⟨.fault .illOperand, []⟩] }) ∧
    (fc = 1 ∨ fc = 2 → ∀ t, exec (.rsClr fc) s = .next t →
      (∃ u, exec .rsGetBits t = .next u ∧ u.res = t.res ++ [⟨.ok, []⟩]) ∧
      (∃ u, exec .rsGetRaw t = .next u ∧ u.res = t.res ++ [⟨.ok, []⟩]) ∧
      (∃ u, exec .rsGetBc t = .next u ∧ u.res = t.res ++ [⟨.ok, [0, 0]⟩]) ∧
      (∃ u, exec .rsEnc t = .next u ∧ u.res = t.res ++ [⟨.ok, [0]⟩]) ∧
      ∀ (n : Half) (v : Byte), ∀ i ∈ [Instr.rsGetBit n, .rsSetBit n v, .rsRstBit n],
        exec i t = .next { t with err := t.err ||| 0x08, res := t.res ++ [⟨.fault .index, []⟩] })

/-- R122: `RS.NEW`, with its tests in their order. -/
def Obligations.RsNewConstructsFromValues : Prop :=
  ∀ (fc kind : Byte) (p : List Byte) (s : State),
    encode (.rsNew fc kind p) = 0x31 :: fc :: kind :: (be16 p.length ++ p) ∧
    (fc ≠ 1 ∧ fc ≠ 2 →
      exec (.rsNew fc kind p) s = .next { s with err := s.err ||| 0x40, res := s.res ++ [⟨.fault .illOperand, []⟩] }) ∧
    (fc = 1 ∨ fc = 2 →
      (kind ≠ 0 ∧ kind ≠ 1 →
        exec (.rsNew fc kind p) s =
          .next { s with err := s.err ||| 0x02, res := s.res ++ [⟨.fault .construction, []⟩] }) ∧
      (kind = 0 ∧ 8 * s.cfg.capBytes < p.length ∨ kind = 1 ∧ s.cfg.capBytes < p.length →
        exec (.rsNew fc kind p) s = .next { s with err := s.err ||| 0x10, res := s.res ++ [⟨.fault .capacity, []⟩] }) ∧
      (kind = 0 ∧ p.length ≤ 8 * s.cfg.capBytes →
        exec (.rsNew fc kind p) s = .next { s with
          rsV := true, rsFc := fc, bits := some (p.map truth), raw := none, bc := none,
          res := s.res ++ [⟨.ok, []⟩] }) ∧
      (kind = 1 ∧ p.length ≤ s.cfg.capBytes →
        exec (.rsNew fc kind p) s = .next { s with
          rsV := true, rsFc := fc, bits := none, raw := some p, bc := none, res := s.res ++ [⟨.ok, []⟩] }))

/-- R123: `RS.GETBITS`. -/
def Obligations.RsGetBitsReturnsTheBitsView : Prop :=
  ∀ s : State,
    encode .rsGetBits = [0x32] ∧
    (s.rsV = false →
      exec .rsGetBits s = .next { s with err := s.err ||| 0x20, res := s.res ++ [⟨.fault .noInst, []⟩] }) ∧
    (s.rsV = true →
      exec .rsGetBits s = .next { s with
        bits := some (bitsView s), res := s.res ++ [⟨.ok, (bitsView s).map elem⟩] })

/-- R124: `RS.GETRAW`. -/
def Obligations.RsGetRawReturnsTheRawView : Prop :=
  ∀ s : State,
    encode .rsGetRaw = [0x33] ∧
    (s.rsV = false →
      exec .rsGetRaw s = .next { s with err := s.err ||| 0x20, res := s.res ++ [⟨.fault .noInst, []⟩] }) ∧
    (s.rsV = true →
      exec .rsGetRaw s = .next { s with raw := some (rawView s), res := s.res ++ [⟨.ok, rawView s⟩] })

/-- R125: `RS.GETBC`. -/
def Obligations.RsGetBcReturnsTheByteCount : Prop :=
  ∀ s : State,
    encode .rsGetBc = [0x34] ∧
    (s.rsV = false →
      exec .rsGetBc s = .next { s with err := s.err ||| 0x20, res := s.res ++ [⟨.fault .noInst, []⟩] }) ∧
    (s.rsV = true → s.Inv →
      exec .rsGetBc s = .next { s with
        raw := some (rawView s), bc := some (rawView s).length,
        res := s.res ++ [⟨.ok, [BitVec.ofNat 8 ((rawView s).length / 256), BitVec.ofNat 8 ((rawView s).length % 256)]⟩] })

/-- R130: `RS.GETBIT`. -/
def Obligations.RsGetBitReadsOneBit : Prop :=
  ∀ (index : Half) (s : State),
    encode (.rsGetBit index) = 0x39 :: be16 index.toNat ∧
    (s.rsV = false →
      exec (.rsGetBit index) s = .next { s with err := s.err ||| 0x20, res := s.res ++ [⟨.fault .noInst, []⟩] }) ∧
    (s.rsV = true → (bitsView s).length ≤ index.toNat →
      exec (.rsGetBit index) s = .next { s with err := s.err ||| 0x08, res := s.res ++ [⟨.fault .index, []⟩] }) ∧
    (s.rsV = true → ∀ h : index.toNat < (bitsView s).length,
      exec (.rsGetBit index) s = .next { s with
        bits := some (bitsView s), res := s.res ++ [⟨.ok, [elem ((bitsView s)[index.toNat])]⟩] })

/-- R126: `RS.SETBITS`. -/
def Obligations.RsSetBitsReplacesTheBits : Prop :=
  ∀ (e : List Byte) (s : State),
    encode (.rsSetBits e) = 0x35 :: (be16 e.length ++ e) ∧
    (8 * s.cfg.capBytes < e.length →
      exec (.rsSetBits e) s = .next { s with err := s.err ||| 0x10, res := s.res ++ [⟨.fault .capacity, []⟩] }) ∧
    (e.length ≤ 8 * s.cfg.capBytes → s.rsV = false →
      exec (.rsSetBits e) s = .next { s with err := s.err ||| 0x20, res := s.res ++ [⟨.fault .noInst, []⟩] }) ∧
    (e.length ≤ 8 * s.cfg.capBytes → s.rsV = true →
      exec (.rsSetBits e) s = .next { s with
        bits := some (e.map truth), raw := none, bc := none, res := s.res ++ [⟨.ok, []⟩] })

/-- R127: `RS.SETRAW`. -/
def Obligations.RsSetRawReplacesTheRaw : Prop :=
  ∀ (r : List Byte) (s : State),
    encode (.rsSetRaw r) = 0x36 :: (be16 r.length ++ r) ∧
    (s.cfg.capBytes < r.length →
      exec (.rsSetRaw r) s = .next { s with err := s.err ||| 0x10, res := s.res ++ [⟨.fault .capacity, []⟩] }) ∧
    (r.length ≤ s.cfg.capBytes → s.rsV = false →
      exec (.rsSetRaw r) s = .next { s with err := s.err ||| 0x20, res := s.res ++ [⟨.fault .noInst, []⟩] }) ∧
    (r.length ≤ s.cfg.capBytes → s.rsV = true →
      exec (.rsSetRaw r) s = .next { s with
        bits := none, raw := some r, bc := none, res := s.res ++ [⟨.ok, []⟩] })

/-- R128: `RS.SETBIT`. -/
def Obligations.RsSetBitWritesOneBit : Prop :=
  ∀ (index : Half) (value : Byte) (s : State),
    encode (.rsSetBit index value) = 0x37 :: (be16 index.toNat ++ [value]) ∧
    (s.rsV = false →
      exec (.rsSetBit index value) s =
        .next { s with err := s.err ||| 0x20, res := s.res ++ [⟨.fault .noInst, []⟩] }) ∧
    (s.rsV = true → (bitsView s).length ≤ index.toNat →
      exec (.rsSetBit index value) s =
        .next { s with err := s.err ||| 0x08, res := s.res ++ [⟨.fault .index, []⟩] }) ∧
    (s.rsV = true → index.toNat < (bitsView s).length →
      exec (.rsSetBit index value) s = .next { s with
        bits := some ((bitsView s).set index.toNat (truth value)), raw := none, bc := none,
        res := s.res ++ [⟨.ok, []⟩] })

/-- R129: `RS.RSTBIT` is `RS.SETBIT` with the value 0, but for its length. -/
def Obligations.RsRstBitIsSetBitOfZero : Prop :=
  ∀ (index : Half) (s : State),
    encode (.rsRstBit index) = 0x38 :: be16 index.toNat ∧
    exec (.rsRstBit index) s = exec (.rsSetBit index 0) s ∧
    (Instr.rsRstBit index).byteLength = 3 ∧ (Instr.rsSetBit index 0).byteLength = 4 ∧
    (s.rsV = true → index.toNat < (bitsView s).length →
      exec (.rsRstBit index) s = .next { s with
        bits := some ((bitsView s).set index.toNat false), raw := none, bc := none, res := s.res ++ [⟨.ok, []⟩] })

/-- R131: `RS.ENC`. -/
def Obligations.RsEncEmitsCountThenRaw : Prop :=
  ∀ s : State,
    encode .rsEnc = [0x3A] ∧
    (s.rsV = false →
      exec .rsEnc s = .next { s with err := s.err ||| 0x20, res := s.res ++ [⟨.fault .noInst, []⟩] }) ∧
    (s.rsV = true → s.Inv → 255 < (rawView s).length →
      exec .rsEnc s = .next { s with err := s.err ||| 0x04, res := s.res ++ [⟨.fault .range, []⟩] }) ∧
    (s.rsV = true → s.Inv → (rawView s).length ≤ 255 →
      exec .rsEnc s = .next { s with
        raw := some (rawView s), bc := some (rawView s).length,
        res := s.res ++ [⟨.ok, BitVec.ofNat 8 (rawView s).length :: rawView s⟩] })

/-- R132: `RS.DEC`: the declared count is returned and neither checked nor stored. -/
def Obligations.RsDecTakesAllAfterTheFirstByte : Prop :=
  ∀ (data : List Byte) (s : State),
    encode (.rsDec data) = 0x3B :: (be16 data.length ++ data) ∧
    (1 + s.cfg.capBytes < data.length →
      exec (.rsDec data) s = .next { s with err := s.err ||| 0x10, res := s.res ++ [⟨.fault .capacity, []⟩] }) ∧
    (data.length ≤ 1 + s.cfg.capBytes → s.rsV = false →
      exec (.rsDec data) s = .next { s with err := s.err ||| 0x20, res := s.res ++ [⟨.fault .noInst, []⟩] }) ∧
    (s.rsV = true → data = [] →
      exec (.rsDec data) s = .next { s with err := s.err ||| 0x01, res := s.res ++ [⟨.fault .framing, []⟩] }) ∧
    (data.length ≤ 1 + s.cfg.capBytes → s.rsV = true → ∀ declared rest, data = declared :: rest →
      exec (.rsDec data) s = .next { s with
        bits := none, raw := some rest, bc := none, res := s.res ++ [⟨.ok, [declared]⟩] })

/-- R29: the document's names for the state that each constructor and mutator leaves. -/
def Obligations.MutatorsLeaveOneAuthoritativeView : Prop :=
  ∀ (i : Instr) (s t : State), exec i s = .next t → Emitted s t .ok →
    (∀ fc, i = .rsClr fc → t.docState = some .unset) ∧
    (∀ fc p, i = .rsNew fc 0 p → t.docState = some (.hasBits (p.map truth))) ∧
    (∀ fc p, i = .rsNew fc 1 p → t.docState = some (.hasRaw p)) ∧
    (∀ e, i = .rsSetBits e → t.docState = some (.hasBits (e.map truth))) ∧
    (∀ r, i = .rsSetRaw r → t.docState = some (.hasRaw r)) ∧
    (∀ n v, i = .rsSetBit n v → t.docState = some (.hasBits ((bitsView s).set n.toNat (truth v)))) ∧
    (∀ n, i = .rsRstBit n → t.docState = some (.hasBits ((bitsView s).set n.toNat false))) ∧
    (∀ d, i = .rsDec d → t.docState = some (.hasRaw (d.drop 1)))

/-- R133: what invalidates what, over every command. What the datastore answers is `valuesAnswer` (log entry 4). -/
def Obligations.InvalidationList : Prop :=
  ∀ (i : Instr) (s t : State), exec i s = .next t →
    (Emitted s t .ok →
      ((∃ fc p, i = .rsNew fc 0 p) ∨ (∃ e, i = .rsSetBits e) ∨ (∃ n v, i = .rsSetBit n v) ∨ (∃ n, i = .rsRstBit n) ∨
        (∃ fc, i = .rsClr fc) ∨ (i = .execute ∧ ∃ e, valuesAnswer (askValidate s) = .seq e) →
        t.raw = none ∧ t.bc = none) ∧
      ((∃ fc p, i = .rsNew fc 1 p) ∨ (∃ r, i = .rsSetRaw r) ∨ (∃ d, i = .rsDec d) ∨ (∃ fc, i = .rsClr fc) ∨
        (i = .execute ∧ ∃ r, valuesAnswer (askValidate s) = .blob r) →
        t.bits = none ∧ t.bc = none)) ∧
    (i.opcode ∈ [Opcode.rsGetBits, .rsGetRaw, .rsGetBc, .rsGetBit, .rsEnc] →
      (∀ b, s.bits = some b → t.bits = some b) ∧ (∀ r, s.raw = some r → t.raw = some r) ∧
      (∀ n, s.bc = some n → t.bc = some n)) ∧
    (∀ c, Emitted s t (.fault c) → SameResponse s t)

/-- R37: which flags each command sets and clears when it ends with status `OK`; a fault and an exception outcome leave
every flag untouched. What the datastore answers is `valuesAnswer` (log entry 4). -/
def Obligations.FlagTable : Prop :=
  ∀ (i : Instr) (s t : State), exec i s = .next t →
    (Emitted s t .ok →
      ((∃ fc, i = .rsClr fc) → t.rsV = true ∧ t.bv = false ∧ t.rv = false ∧ t.cv = false) ∧
      ((∃ fc p, i = .rsNew fc 0 p) → t.rsV = true ∧ t.bv = true ∧ t.rv = false ∧ t.cv = false) ∧
      ((∃ fc p, i = .rsNew fc 1 p) → t.rsV = true ∧ t.bv = false ∧ t.rv = true ∧ t.cv = false) ∧
      (i = .rsGetBits ∨ (∃ n, i = .rsGetBit n) →
        t.rsV = s.rsV ∧ t.bv = true ∧ t.rv = s.rv ∧ t.cv = s.cv) ∧
      (i = .rsGetRaw → t.rsV = s.rsV ∧ t.bv = s.bv ∧ t.rv = true ∧ t.cv = s.cv) ∧
      (i = .rsGetBc ∨ i = .rsEnc → s.Inv → t.rsV = s.rsV ∧ t.bv = s.bv ∧ t.rv = true ∧ t.cv = true) ∧
      ((∃ e, i = .rsSetBits e) ∨ (∃ n v, i = .rsSetBit n v) ∨ (∃ n, i = .rsRstBit n) →
        t.rsV = s.rsV ∧ t.bv = true ∧ t.rv = false ∧ t.cv = false) ∧
      ((∃ r, i = .rsSetRaw r) ∨ (∃ d, i = .rsDec d) →
        t.rsV = s.rsV ∧ t.bv = false ∧ t.rv = true ∧ t.cv = false) ∧
      (i = .execute → t.rsV = true ∧ t.cv = false ∧
        ((∃ e, valuesAnswer (askValidate s) = .seq e) ∧ t.bv = true ∧ t.rv = false ∨
         (∃ r, valuesAnswer (askValidate s) = .blob r) ∧ t.bv = false ∧ t.rv = true)) ∧
      (i.opcode ∈ [Opcode.pack, .unpack, .rqNew, .rqEnc, .rqDec, .rdReg] →
        t.rsV = s.rsV ∧ t.bv = s.bv ∧ t.rv = s.rv ∧ t.cv = s.cv)) ∧
    (∀ st, st ≠ .ok → Emitted s t st → t.rsV = s.rsV ∧ t.bv = s.bv ∧ t.rv = s.rv ∧ t.cv = s.cv)

/-- R52: where both views are held, bit `i` of BITS is bit `i mod 8` of byte `i div 8` of RAW. -/
def Obligations.BothViewsShowTheSameBit : Prop :=
  ∀ (s : State) (b : List Bool) (r : List Byte) (i : Nat), s.Inv → s.bits = some b → s.raw = some r → i < b.length →
    r.length = (b.length + 7) / 8 ∧ b.getD i false = (r.getD (i / 8) 0).getLsbD (i % 8)

/-- R55: each accessor is idempotent: issued twice in a row it ends the same way both times and leaves the same state but
for the second record. -/
def Obligations.AccessorsAreIdempotent : Prop :=
  ∀ (i : Instr) (s t u : State), i.opcode ∈ [Opcode.rsGetBits, .rsGetRaw, .rsGetBc, .rsGetBit, .rsEnc] →
    exec i s = .next t → exec i t = .next u →
    ∃ r : Record, t.res = s.res ++ [r] ∧ u = { t with res := t.res ++ [r] }

/-- R36: construction overwrites the whole frame: nothing of the old instance is left. For `EXEC` the two runs have the
same request and get the same answers from the datastore, which are `validateAnswer` and `valuesAnswer` (log entry 4). -/
def Obligations.ConstructionLeavesNothingOfTheOldInstance : Prop :=
  ∀ (i : Instr) (s s' t t' : State), s'.cfg = s.cfg → exec i s = .next t → exec i s' = .next t' → Emitted s t .ok →
    ((∃ fc a c, i = .rqNew fc a c) → SameRequest t t') ∧
    ((∃ fc, i = .rsClr fc) ∨ (∃ fc k p, i = .rsNew fc k p) → SameResponse t t') ∧
    (i = .execute → SameRequest s s' → validateAnswer s' = validateAnswer s →
      valuesAnswer (askValidate s') = valuesAnswer (askValidate s) → SameResponse t t')

/-- R135: the byte count law. -/
def Obligations.ByteCountIsTheLengthOfTheRawView : Prop :=
  ∀ s : State, s.Inv → s.rsV = true →
    ∃ (r : List Byte) (tc tr u v : State),
      exec .rsGetBc s = .next tc ∧ tc.res = s.res ++ [⟨.ok, be16 r.length⟩] ∧
      exec .rsGetRaw s = .next tr ∧ tr.res = s.res ++ [⟨.ok, r⟩] ∧
      exec .rsGetRaw tc = .next u ∧ u.res = tc.res ++ [⟨.ok, r⟩] ∧
      exec .rsGetBc tr = .next v ∧ v.res = tr.res ++ [⟨.ok, be16 r.length⟩] ∧
      (r.length ≤ 255 → ∃ w, exec .rsEnc s = .next w ∧ w.res = s.res ++ [⟨.ok, BitVec.ofNat 8 r.length :: r⟩]) ∧
      ∀ (q : Bool) (fc : Byte) (a c : Half), ∃ x,
        exec .rsGetBc { s with rqV := q, rqFc := fc, rqAddr := a, rqCount := c } = .next x ∧
        x.res = s.res ++ [⟨.ok, be16 r.length⟩]

/-- R136: the single-bit law. -/
def Obligations.SetBitThenGetBit : Prop :=
  ∀ (n : Half) (v : Byte) (s t : State), exec (.rsSetBit n v) s = .next t → Emitted s t .ok →
    (bitsView t).length = (bitsView s).length ∧
    (∃ u, exec (.rsGetBit n) t = .next u ∧ u.res = t.res ++ [⟨.ok, [elem (truth v)]⟩]) ∧
    ∀ m : Half, m ≠ n → m.toNat < (bitsView s).length →
      ∃ (u w : State) (b : Bool), exec (.rsGetBit m) s = .next u ∧ u.res = s.res ++ [⟨.ok, [elem b]⟩] ∧
        exec (.rsGetBit m) t = .next w ∧ w.res = t.res ++ [⟨.ok, [elem b]⟩]

/-- R137: a response encoded and then decoded into any instance; `r` is the raw view. -/
def Obligations.EncodeThenDecodeResponse : Prop :=
  ∀ (s s' : State), s.Inv → s.rsV = true → (rawView s).length ≤ 255 →
    s'.Inv → s'.rsV = true →
    ∃ (t u w : State) (r : List Byte), r = rawView s ∧
      exec .rsEnc s = .next t ∧ t.res = s.res ++ [⟨.ok, BitVec.ofNat 8 r.length :: r⟩] ∧
      exec (.rsDec (BitVec.ofNat 8 r.length :: r)) s' = .next u ∧ u.docState = some (.hasRaw r) ∧
      u.res = s'.res ++ [⟨.ok, [BitVec.ofNat 8 r.length]⟩] ∧
      exec .rsGetBits u = .next w ∧ w.res = u.res ++ [⟨.ok, (unpack r).map elem⟩] ∧
      ∀ b, s.bits = some b → unpack r = b ++ List.replicate ((8 - b.length % 8) % 8) false

/-! ### Execution and system -/

/-- R150: `EXEC`. Each clause gives the record, the queries made in their order, and what changes. That the answers come
from queues in State or else are free values is the model's choice (log entry 4); that the queries are kept is log entry 10;
that they stay asked, and the answers taken, where the command ends in `EXC_ILLEGAL_ADDRESS`, `CONSTRUCTION` or `CAPACITY` is
log entry 18. That `EXEC` ends at all assumes that the datastore answers, as R212 asks a claim to say (log entry 5). -/
def Obligations.ExecRunsTheThreeSteps : Prop :=
  ∀ s : State,
    encode .execute = [0x40] ∧
    (s.rqV = false →
      exec .execute s = .next { s with err := s.err ||| 0x20, res := s.res ++ [⟨.fault .noInst, []⟩] }) ∧
    (s.rqV = true → s.rqCount.toNat < 1 ∨ 2000 < s.rqCount.toNat →
      exec .execute s = .next { s with res := s.res ++ [⟨.exc .illegalValue, []⟩] }) ∧
    (s.rqV = true → 1 ≤ s.rqCount.toNat → s.rqCount.toNat ≤ 2000 → validateAnswer s = false →
      exec .execute s = .next { s with
        dsValidateIn := s.dsValidateIn.tail, dsTick := s.dsTick + 1,
        dsQueries := s.dsQueries ++ [⟨.validate, s.rqFc, s.rqAddr, s.rqCount⟩],
        res := s.res ++ [⟨.exc .illegalAddress, []⟩] }) ∧
    (s.rqV = true → 1 ≤ s.rqCount.toNat → s.rqCount.toNat ≤ 2000 → validateAnswer s = true →
      ∃ asked : State, asked = { s with
          dsValidateIn := s.dsValidateIn.tail, dsValuesIn := s.dsValuesIn.tail, dsTick := s.dsTick + 2,
          dsQueries := s.dsQueries ++
            [⟨.validate, s.rqFc, s.rqAddr, s.rqCount⟩, ⟨.getValues, s.rqFc, s.rqAddr, s.rqCount⟩] } ∧
        (valuesAnswer (askValidate s) = .other →
          exec .execute s =
            .next { asked with err := s.err ||| 0x02, res := s.res ++ [⟨.fault .construction, []⟩] }) ∧
        (∀ e, valuesAnswer (askValidate s) = .seq e → e.length ≤ 8 * s.cfg.capBytes →
          exec .execute s = .next { asked with
            rsV := true, rsFc := s.rqFc, bits := some (e.map truth), raw := none, bc := none,
            res := s.res ++ [⟨.ok, []⟩] }) ∧
        (∀ e, valuesAnswer (askValidate s) = .seq e → 8 * s.cfg.capBytes < e.length →
          exec .execute s = .next { asked with err := s.err ||| 0x10, res := s.res ++ [⟨.fault .capacity, []⟩] }) ∧
        (∀ r, valuesAnswer (askValidate s) = .blob r → r.length ≤ s.cfg.capBytes →
          exec .execute s = .next { asked with
            rsV := true, rsFc := s.rqFc, bits := none, raw := some r, bc := none, res := s.res ++ [⟨.ok, []⟩] }) ∧
        (∀ r, valuesAnswer (askValidate s) = .blob r → s.cfg.capBytes < r.length →
          exec .execute s = .next { asked with err := s.err ||| 0x10, res := s.res ++ [⟨.fault .capacity, []⟩] }))

/-- R150: step 3 has exactly the effect of `RS.NEW` with the request's tag, run where both queries have been made. The port in
State is the model's (log entries 4, 10), and so is that the queries stay made where the answer ends in a fault (log entry
18). It assumes that the datastore answers, as R212 asks a claim to say (log entry 5). -/
def Obligations.ExecFetchIsRsNew : Prop :=
  ∀ s : State, s.Inv → s.rqV = true → 1 ≤ s.rqCount.toNat → s.rqCount.toNat ≤ 2000 → validateAnswer s = true →
    (∀ e, valuesAnswer (askValidate s) = .seq e →
      exec .execute s = exec (.rsNew s.rqFc 0 e) (askGetValues (askValidate s))) ∧
    (∀ r, valuesAnswer (askValidate s) = .blob r →
      exec .execute s = exec (.rsNew s.rqFc 1 r) (askGetValues (askValidate s))) ∧
    (valuesAnswer (askValidate s) = .other → ∀ (kind : Byte) (p : List Byte), kind ≠ 0 → kind ≠ 1 →
      exec .execute s = exec (.rsNew s.rqFc kind p) (askGetValues (askValidate s)))

/-- R154: the document's two properties of execution. That nothing is asked where the count is refused is R150's, told in the
model's own queues, query list and query number (log entries 4, 10). That `EXEC` ends after a query assumes that the datastore
answers, as R212 asks a claim to say (log entry 5). -/
def Obligations.ExecExceptionOutcomes : Prop :=
  (∀ (fc : Byte) (a c : Half) (s t : State), fc = 1 ∨ fc = 2 → c = 0 ∨ c = 2001 →
    exec (.rqNew fc a c) s = .next t →
    ∃ u, exec .execute t = .next u ∧ Emitted t u (.exc .illegalValue) ∧ SameDs t u) ∧
  (∀ s : State, s.rqV = true → 1 ≤ s.rqCount.toNat → s.rqCount.toNat ≤ 2000 → validateAnswer s = false →
    ∃ u, exec .execute s = .next u ∧ Emitted s u (.exc .illegalAddress)) ∧
  (∀ s : State, s.rqV = true → s.rqCount.toNat < 1 ∨ 2000 < s.rqCount.toNat →
    ∃ u, exec .execute s = .next u ∧ Emitted s u (.exc .illegalValue))

/-- R153, R33: `RDREG` and every register of the map. -/
def Obligations.RdRegReadsTheRegisterMap : Prop :=
  ∀ (reg : Byte) (s : State),
    encode (.rdReg reg) = [0x50, reg] ∧
    (0x0B < reg.toNat →
      exec (.rdReg reg) s = .next { s with err := s.err ||| 0x40, res := s.res ++ [⟨.fault .illOperand, []⟩] }) ∧
    (reg.toNat ≤ 0x0B →
      ∃ v : Nat, exec (.rdReg reg) s = .next { s with
          res := s.res ++ [⟨.ok, [BitVec.ofNat 8 (v / 256), BitVec.ofNat 8 (v % 256)]⟩] } ∧
        (reg = 0x00 → v = if s.rqV then 256 * s.rqFc.toNat + 1 else 0) ∧
        (reg = 0x01 → v = if s.rqV then s.rqAddr.toNat else 0) ∧
        (reg = 0x02 → v = if s.rqV then s.rqCount.toNat else 0) ∧
        (reg = 0x03 → v = (if s.rsV then 256 * s.rsFc.toNat + 1 else 0) + (if s.bits.isSome then 2 else 0)
          + (if s.raw.isSome then 4 else 0) + (if s.bc.isSome then 8 else 0)) ∧
        (reg = 0x04 → v = match s.bits with | some b => b.length | none => 0) ∧
        (reg = 0x05 → v = match s.raw with | some r => r.length | none => 0) ∧
        (reg = 0x06 → v = match s.bc with | some n => n | none => 0) ∧
        (reg = 0x07 → v = s.err.toNat) ∧
        (reg = 0x08 → v = s.cfg.capBytes) ∧
        (reg = 0x09 → v = 2000) ∧
        (reg = 0x0A → v = s.cfg.rqFrameLen.toNat) ∧
        (reg = 0x0B → v = s.cfg.rsBcPos.toNat))

/-! ### Invariants and refinement -/

/-- R28, R38: the state after reset meets the invariants, for every configuration in the range of R6. -/
def Obligations.ResetMeetsTheInvariants : Prop :=
  (∀ cfg : Config, cfg.wf → (State.resetWith cfg).Inv) ∧ State.reset.Inv

/-- R28, R134: every step keeps the invariants I1 to I5, the tags, `HALTED` against `ERR` bit 7, and the form of the
records; so does everything the environment can do. -/
def Obligations.EveryStepKeepsTheInvariants : Prop :=
  (∀ s t : State, s.Inv → step s = .next t → t.Inv) ∧
  (∀ (s : State) (bs : List Byte) (a k : Byte), s.Inv →
    (hostWrite bs s).Inv ∧ (hostReset s).Inv ∧ (hostDsValidate a s).Inv ∧ (hostDsValues k bs s).Inv)

/-- R29, R55, R210: caching is invisible. From two states with the same content, every command but the reads of the
registers 0x03 to 0x06 ends the same way, and leaves the same content. -/
def Obligations.CachingIsInvisible : Prop :=
  ∀ (i : Instr) (s s' t : State), s.Inv → s'.Inv → SameContent s s' →
    (∀ reg : Byte, i = .rdReg reg → reg.toNat < 3 ∨ 6 < reg.toNat) →
    exec i s = .next t → ∃ t', exec i s' = .next t' ∧ SameContent t t'
end

