-- ==== Sys2Proof/Laws/Codec.lean ====
section
/-! SUPPORT. The small facts about the bit codec: lengths, and what one bit of a packed byte is. -/

namespace Sys2Proof.Machine

/-- Bit `k` of the number is element `k` of the sequence. -/
theorem testBit_bitsValue (b : List Bool) (k : Nat) : (bitsValue b).testBit k = b.getD k false := by
  induction b generalizing k with
  | nil => simp [bitsValue]
  | cons x xs ih =>
    cases k with
    | zero => cases x <;> simp [bitsValue, Nat.testBit_zero]
    | succ k =>
      have h : (x.toNat + 2 * bitsValue xs) / 2 = bitsValue xs := by cases x <;> simp [Nat.add_mul_div_left]
      simpa [bitsValue, Nat.testBit_succ, h] using ih k

@[simp] theorem pack_length (b : List Bool) : (pack b).length = (b.length + 7) / 8 := by simp [pack, packedLength]

@[simp] theorem unpack_length (r : List Byte) : (unpack r).length = 8 * r.length := by simp [unpack]

/-- Bit `k` of packed byte `j`. -/
theorem packByte_bit (b : List Bool) (j k : Nat) (hk : k < 8) : (packByte b j).getLsbD k = b.getD (8 * j + k) false := by
  simp only [packByte, BitVec.getLsbD_ofNat, testBit_bitsValue, hk, decide_true, Bool.true_and]
  simp [List.getD_eq_getElem?_getD, hk, List.getElem?_drop]

/-- Byte `j` of the packed form. -/
theorem pack_getD (b : List Bool) (j : Nat) (h : j < (b.length + 7) / 8) : (pack b).getD j 0 = packByte b j := by
  simp [pack, packedLength, List.getD_eq_getElem?_getD, List.getElem?_map, List.getElem?_range h]

/-- Bit `i` of the unpacked form. -/
theorem unpack_getD (r : List Byte) (i : Nat) (h : i < 8 * r.length) :
    (unpack r).getD i false = (r.getD (i / 8) 0).getLsbD (i % 8) := by
  simp [unpack, byteIndex, bitInByte, List.getD_eq_getElem?_getD, List.getElem?_map, List.getElem?_range h]

/-- Two bit sequences of one length with the same bits are equal. -/
theorem bits_ext (a b : List Bool) (hl : a.length = b.length)
    (h : ∀ i, i < a.length → a.getD i false = b.getD i false) : a = b := by
  apply List.ext_getElem hl
  intro i h1 h2
  have := h i h1
  simpa [List.getD_eq_getElem?_getD, h1, h2] using this

/-- Two byte strings of one length with the same bits are equal. -/
theorem bytes_ext (a b : List Byte) (hl : a.length = b.length)
    (h : ∀ j k, j < a.length → k < 8 → (a.getD j 0).getLsbD k = (b.getD j 0).getLsbD k) : a = b := by
  apply List.ext_getElem hl
  intro i h1 h2
  apply BitVec.eq_of_getLsbD_eq
  intro k hk
  have := h i k h1 hk
  simpa [List.getD_eq_getElem?_getD, h1, h2] using this

end Sys2Proof.Machine
end

