-- ==== Sys2Proof/Laws/Decode.lean ====
section
/-! SUPPORT. The small facts about byte order, the opcode map and the operand decoders. -/

namespace Sys2Proof

@[simp] theorem be16_length (v : Nat) : (be16 v).length = 2 := rfl

theorem unbe16_lt (h l : Byte) : unbe16 h l < 65536 := by
  have := h.isLt; have := l.isLt; unfold unbe16; omega

/-- Reading back a 16-bit number written big-endian (R7). -/
theorem unbe16_be16 (v : Nat) (h : v < 65536) :
    unbe16 (BitVec.ofNat 8 (v / 256)) (BitVec.ofNat 8 (v % 256)) = v := by
  simp only [unbe16, BitVec.toNat_ofNat]; omega

theorem be16_unbe16 (h l : Byte) : be16 (unbe16 h l) = [h, l] := by
  have := h.isLt; have := l.isLt
  have h1 : (256 * h.toNat + l.toNat) / 256 = h.toNat := by omega
  have h2 : (256 * h.toNat + l.toNat) % 256 = l.toNat := by omega
  simp [be16, unbe16, h1, h2]

theorem half_be16 (v : Half) :
    half (BitVec.ofNat 8 (v.toNat / 256)) (BitVec.ofNat 8 (v.toNat % 256)) = v := by
  simp [half, unbe16_be16 v.toNat v.isLt]

theorem be16_half (h l : Byte) : be16 (half h l).toNat = [h, l] := by
  have := unbe16_lt h l
  rw [half, BitVec.toNat_ofNat, Nat.mod_eq_of_lt (by omega), be16_unbe16]

/-- Every row of the opcode map is found under its own code (R73). -/
@[simp] theorem ofByte_code (o : Opcode) : Opcode.ofByte o.code = some o := by cases o <;> rfl

/-- What the opcode map finds has the byte it was looked up by (R73). -/
theorem code_of_ofByte (b : Byte) (o : Opcode) (h : Opcode.ofByte b = some o) : o.code = b := by
  simpa using List.find?_some h

/-- A payload that has arrived whole is taken, and the rest is left (R76). -/
theorem decodePayload_append (mk : List Byte → Instr) (p rest : List Byte) :
    decodePayload p.length mk (p ++ rest) = .command (mk p) rest := by
  simp [decodePayload]

/-- What a payload decodes to: its bytes were all there. -/
theorem decodePayload_command (n : Nat) (mk : List Byte → Instr) (bs rest : List Byte) (i : Instr)
    (h : decodePayload n mk bs = .command i rest) :
    ∃ p, p.length = n ∧ bs = p ++ rest ∧ i = mk p := by
  unfold decodePayload at h
  split at h
  · cases h
  · cases h
    exact ⟨bs.take n, by simp; omega, (List.take_append_drop n bs).symm, rfl⟩

end Sys2Proof
end

