-- ==== Sys2Proof/Laws/State.lean ====
section
/-! SUPPORT. One lemma per field per update, so that no later proof unfolds a record update. -/

namespace Sys2Proof.Machine

@[simp] theorem emit_rqV (r : Record) (s : State) : (emit r s).rqV = s.rqV := rfl
@[simp] theorem emit_rqFc (r : Record) (s : State) : (emit r s).rqFc = s.rqFc := rfl
@[simp] theorem emit_rqAddr (r : Record) (s : State) : (emit r s).rqAddr = s.rqAddr := rfl
@[simp] theorem emit_rqCount (r : Record) (s : State) : (emit r s).rqCount = s.rqCount := rfl
@[simp] theorem emit_rsV (r : Record) (s : State) : (emit r s).rsV = s.rsV := rfl
@[simp] theorem emit_rsFc (r : Record) (s : State) : (emit r s).rsFc = s.rsFc := rfl
@[simp] theorem emit_bits (r : Record) (s : State) : (emit r s).bits = s.bits := rfl
@[simp] theorem emit_raw (r : Record) (s : State) : (emit r s).raw = s.raw := rfl
@[simp] theorem emit_bc (r : Record) (s : State) : (emit r s).bc = s.bc := rfl
@[simp] theorem emit_err (r : Record) (s : State) : (emit r s).err = s.err := rfl
@[simp] theorem emit_halted (r : Record) (s : State) : (emit r s).halted = s.halted := rfl
@[simp] theorem emit_pc (r : Record) (s : State) : (emit r s).pc = s.pc := rfl
@[simp] theorem emit_cmd (r : Record) (s : State) : (emit r s).cmd = s.cmd := rfl
@[simp] theorem emit_res (r : Record) (s : State) : (emit r s).res = s.res ++ [r] := rfl
@[simp] theorem emit_dsValidateIn (r : Record) (s : State) : (emit r s).dsValidateIn = s.dsValidateIn := rfl
@[simp] theorem emit_dsValuesIn (r : Record) (s : State) : (emit r s).dsValuesIn = s.dsValuesIn := rfl
@[simp] theorem emit_dsQueries (r : Record) (s : State) : (emit r s).dsQueries = s.dsQueries := rfl
@[simp] theorem emit_dsTick (r : Record) (s : State) : (emit r s).dsTick = s.dsTick := rfl
@[simp] theorem emit_cfg (r : Record) (s : State) : (emit r s).cfg = s.cfg := rfl

@[simp] theorem takeFault_rqV (c : Cause) (s : State) : (takeFault c s).rqV = s.rqV := rfl
@[simp] theorem takeFault_rqFc (c : Cause) (s : State) : (takeFault c s).rqFc = s.rqFc := rfl
@[simp] theorem takeFault_rqAddr (c : Cause) (s : State) : (takeFault c s).rqAddr = s.rqAddr := rfl
@[simp] theorem takeFault_rqCount (c : Cause) (s : State) : (takeFault c s).rqCount = s.rqCount := rfl
@[simp] theorem takeFault_rsV (c : Cause) (s : State) : (takeFault c s).rsV = s.rsV := rfl
@[simp] theorem takeFault_rsFc (c : Cause) (s : State) : (takeFault c s).rsFc = s.rsFc := rfl
@[simp] theorem takeFault_bits (c : Cause) (s : State) : (takeFault c s).bits = s.bits := rfl
@[simp] theorem takeFault_raw (c : Cause) (s : State) : (takeFault c s).raw = s.raw := rfl
@[simp] theorem takeFault_bc (c : Cause) (s : State) : (takeFault c s).bc = s.bc := rfl
@[simp] theorem takeFault_err (c : Cause) (s : State) : (takeFault c s).err = s.err ||| c.errBit := rfl
@[simp] theorem takeFault_halted (c : Cause) (s : State) : (takeFault c s).halted = (s.halted || c.halts) := rfl
@[simp] theorem takeFault_pc (c : Cause) (s : State) : (takeFault c s).pc = s.pc := rfl
@[simp] theorem takeFault_cmd (c : Cause) (s : State) : (takeFault c s).cmd = s.cmd := rfl
@[simp] theorem takeFault_res (c : Cause) (s : State) : (takeFault c s).res = s.res ++ [⟨.fault c, []⟩] := rfl
@[simp] theorem takeFault_dsValidateIn (c : Cause) (s : State) : (takeFault c s).dsValidateIn = s.dsValidateIn := rfl
@[simp] theorem takeFault_dsValuesIn (c : Cause) (s : State) : (takeFault c s).dsValuesIn = s.dsValuesIn := rfl
@[simp] theorem takeFault_dsQueries (c : Cause) (s : State) : (takeFault c s).dsQueries = s.dsQueries := rfl
@[simp] theorem takeFault_dsTick (c : Cause) (s : State) : (takeFault c s).dsTick = s.dsTick := rfl
@[simp] theorem takeFault_cfg (c : Cause) (s : State) : (takeFault c s).cfg = s.cfg := rfl

@[simp] theorem advance_rqV (i : Instr) (rest : List Byte) (s : State) : (advance i rest s).rqV = s.rqV := rfl
@[simp] theorem advance_rqFc (i : Instr) (rest : List Byte) (s : State) : (advance i rest s).rqFc = s.rqFc := rfl
@[simp] theorem advance_rqAddr (i : Instr) (rest : List Byte) (s : State) : (advance i rest s).rqAddr = s.rqAddr := rfl
@[simp] theorem advance_rqCount (i : Instr) (rest : List Byte) (s : State) : (advance i rest s).rqCount = s.rqCount := rfl
@[simp] theorem advance_rsV (i : Instr) (rest : List Byte) (s : State) : (advance i rest s).rsV = s.rsV := rfl
@[simp] theorem advance_rsFc (i : Instr) (rest : List Byte) (s : State) : (advance i rest s).rsFc = s.rsFc := rfl
@[simp] theorem advance_bits (i : Instr) (rest : List Byte) (s : State) : (advance i rest s).bits = s.bits := rfl
@[simp] theorem advance_raw (i : Instr) (rest : List Byte) (s : State) : (advance i rest s).raw = s.raw := rfl
@[simp] theorem advance_bc (i : Instr) (rest : List Byte) (s : State) : (advance i rest s).bc = s.bc := rfl
@[simp] theorem advance_err (i : Instr) (rest : List Byte) (s : State) : (advance i rest s).err = s.err := rfl
@[simp] theorem advance_halted (i : Instr) (rest : List Byte) (s : State) : (advance i rest s).halted = s.halted := rfl
@[simp] theorem advance_pc (i : Instr) (rest : List Byte) (s : State) : (advance i rest s).pc = s.pc + i.byteLength := rfl
@[simp] theorem advance_cmd (i : Instr) (rest : List Byte) (s : State) : (advance i rest s).cmd = rest := rfl
@[simp] theorem advance_res (i : Instr) (rest : List Byte) (s : State) : (advance i rest s).res = s.res := rfl
@[simp] theorem advance_dsValidateIn (i : Instr) (rest : List Byte) (s : State) : (advance i rest s).dsValidateIn = s.dsValidateIn := rfl
@[simp] theorem advance_dsValuesIn (i : Instr) (rest : List Byte) (s : State) : (advance i rest s).dsValuesIn = s.dsValuesIn := rfl
@[simp] theorem advance_dsQueries (i : Instr) (rest : List Byte) (s : State) : (advance i rest s).dsQueries = s.dsQueries := rfl
@[simp] theorem advance_dsTick (i : Instr) (rest : List Byte) (s : State) : (advance i rest s).dsTick = s.dsTick := rfl
@[simp] theorem advance_cfg (i : Instr) (rest : List Byte) (s : State) : (advance i rest s).cfg = s.cfg := rfl

@[simp] theorem setRequestFields_rqV (a c : Half) (s : State) : (setRequestFields a c s).rqV = s.rqV := rfl
@[simp] theorem setRequestFields_rqFc (a c : Half) (s : State) : (setRequestFields a c s).rqFc = s.rqFc := rfl
@[simp] theorem setRequestFields_rqAddr (a c : Half) (s : State) : (setRequestFields a c s).rqAddr = a := rfl
@[simp] theorem setRequestFields_rqCount (a c : Half) (s : State) : (setRequestFields a c s).rqCount = c := rfl
@[simp] theorem setRequestFields_rsV (a c : Half) (s : State) : (setRequestFields a c s).rsV = s.rsV := rfl
@[simp] theorem setRequestFields_rsFc (a c : Half) (s : State) : (setRequestFields a c s).rsFc = s.rsFc := rfl
@[simp] theorem setRequestFields_bits (a c : Half) (s : State) : (setRequestFields a c s).bits = s.bits := rfl
@[simp] theorem setRequestFields_raw (a c : Half) (s : State) : (setRequestFields a c s).raw = s.raw := rfl
@[simp] theorem setRequestFields_bc (a c : Half) (s : State) : (setRequestFields a c s).bc = s.bc := rfl
@[simp] theorem setRequestFields_err (a c : Half) (s : State) : (setRequestFields a c s).err = s.err := rfl
@[simp] theorem setRequestFields_halted (a c : Half) (s : State) : (setRequestFields a c s).halted = s.halted := rfl
@[simp] theorem setRequestFields_pc (a c : Half) (s : State) : (setRequestFields a c s).pc = s.pc := rfl
@[simp] theorem setRequestFields_cmd (a c : Half) (s : State) : (setRequestFields a c s).cmd = s.cmd := rfl
@[simp] theorem setRequestFields_res (a c : Half) (s : State) : (setRequestFields a c s).res = s.res := rfl
@[simp] theorem setRequestFields_dsValidateIn (a c : Half) (s : State) : (setRequestFields a c s).dsValidateIn = s.dsValidateIn := rfl
@[simp] theorem setRequestFields_dsValuesIn (a c : Half) (s : State) : (setRequestFields a c s).dsValuesIn = s.dsValuesIn := rfl
@[simp] theorem setRequestFields_dsQueries (a c : Half) (s : State) : (setRequestFields a c s).dsQueries = s.dsQueries := rfl
@[simp] theorem setRequestFields_dsTick (a c : Half) (s : State) : (setRequestFields a c s).dsTick = s.dsTick := rfl
@[simp] theorem setRequestFields_cfg (a c : Half) (s : State) : (setRequestFields a c s).cfg = s.cfg := rfl

@[simp] theorem openRequest_rqV (fc : Byte) (a c : Half) (s : State) : (openRequest fc a c s).rqV = true := rfl
@[simp] theorem openRequest_rqFc (fc : Byte) (a c : Half) (s : State) : (openRequest fc a c s).rqFc = fc := rfl
@[simp] theorem openRequest_rqAddr (fc : Byte) (a c : Half) (s : State) : (openRequest fc a c s).rqAddr = a := rfl
@[simp] theorem openRequest_rqCount (fc : Byte) (a c : Half) (s : State) : (openRequest fc a c s).rqCount = c := rfl
@[simp] theorem openRequest_rsV (fc : Byte) (a c : Half) (s : State) : (openRequest fc a c s).rsV = s.rsV := rfl
@[simp] theorem openRequest_rsFc (fc : Byte) (a c : Half) (s : State) : (openRequest fc a c s).rsFc = s.rsFc := rfl
@[simp] theorem openRequest_bits (fc : Byte) (a c : Half) (s : State) : (openRequest fc a c s).bits = s.bits := rfl
@[simp] theorem openRequest_raw (fc : Byte) (a c : Half) (s : State) : (openRequest fc a c s).raw = s.raw := rfl
@[simp] theorem openRequest_bc (fc : Byte) (a c : Half) (s : State) : (openRequest fc a c s).bc = s.bc := rfl
@[simp] theorem openRequest_err (fc : Byte) (a c : Half) (s : State) : (openRequest fc a c s).err = s.err := rfl
@[simp] theorem openRequest_halted (fc : Byte) (a c : Half) (s : State) : (openRequest fc a c s).halted = s.halted := rfl
@[simp] theorem openRequest_pc (fc : Byte) (a c : Half) (s : State) : (openRequest fc a c s).pc = s.pc := rfl
@[simp] theorem openRequest_cmd (fc : Byte) (a c : Half) (s : State) : (openRequest fc a c s).cmd = s.cmd := rfl
@[simp] theorem openRequest_res (fc : Byte) (a c : Half) (s : State) : (openRequest fc a c s).res = s.res := rfl
@[simp] theorem openRequest_dsValidateIn (fc : Byte) (a c : Half) (s : State) : (openRequest fc a c s).dsValidateIn = s.dsValidateIn := rfl
@[simp] theorem openRequest_dsValuesIn (fc : Byte) (a c : Half) (s : State) : (openRequest fc a c s).dsValuesIn = s.dsValuesIn := rfl
@[simp] theorem openRequest_dsQueries (fc : Byte) (a c : Half) (s : State) : (openRequest fc a c s).dsQueries = s.dsQueries := rfl
@[simp] theorem openRequest_dsTick (fc : Byte) (a c : Half) (s : State) : (openRequest fc a c s).dsTick = s.dsTick := rfl
@[simp] theorem openRequest_cfg (fc : Byte) (a c : Half) (s : State) : (openRequest fc a c s).cfg = s.cfg := rfl

@[simp] theorem holdBits_rqV (s : State) : (holdBits s).rqV = s.rqV := rfl
@[simp] theorem holdBits_rqFc (s : State) : (holdBits s).rqFc = s.rqFc := rfl
@[simp] theorem holdBits_rqAddr (s : State) : (holdBits s).rqAddr = s.rqAddr := rfl
@[simp] theorem holdBits_rqCount (s : State) : (holdBits s).rqCount = s.rqCount := rfl
@[simp] theorem holdBits_rsV (s : State) : (holdBits s).rsV = s.rsV := rfl
@[simp] theorem holdBits_rsFc (s : State) : (holdBits s).rsFc = s.rsFc := rfl
@[simp] theorem holdBits_bits (s : State) : (holdBits s).bits = some (bitsView s) := rfl
@[simp] theorem holdBits_raw (s : State) : (holdBits s).raw = s.raw := rfl
@[simp] theorem holdBits_bc (s : State) : (holdBits s).bc = s.bc := rfl
@[simp] theorem holdBits_err (s : State) : (holdBits s).err = s.err := rfl
@[simp] theorem holdBits_halted (s : State) : (holdBits s).halted = s.halted := rfl
@[simp] theorem holdBits_pc (s : State) : (holdBits s).pc = s.pc := rfl
@[simp] theorem holdBits_cmd (s : State) : (holdBits s).cmd = s.cmd := rfl
@[simp] theorem holdBits_res (s : State) : (holdBits s).res = s.res := rfl
@[simp] theorem holdBits_dsValidateIn (s : State) : (holdBits s).dsValidateIn = s.dsValidateIn := rfl
@[simp] theorem holdBits_dsValuesIn (s : State) : (holdBits s).dsValuesIn = s.dsValuesIn := rfl
@[simp] theorem holdBits_dsQueries (s : State) : (holdBits s).dsQueries = s.dsQueries := rfl
@[simp] theorem holdBits_dsTick (s : State) : (holdBits s).dsTick = s.dsTick := rfl
@[simp] theorem holdBits_cfg (s : State) : (holdBits s).cfg = s.cfg := rfl

@[simp] theorem holdRaw_rqV (s : State) : (holdRaw s).rqV = s.rqV := rfl
@[simp] theorem holdRaw_rqFc (s : State) : (holdRaw s).rqFc = s.rqFc := rfl
@[simp] theorem holdRaw_rqAddr (s : State) : (holdRaw s).rqAddr = s.rqAddr := rfl
@[simp] theorem holdRaw_rqCount (s : State) : (holdRaw s).rqCount = s.rqCount := rfl
@[simp] theorem holdRaw_rsV (s : State) : (holdRaw s).rsV = s.rsV := rfl
@[simp] theorem holdRaw_rsFc (s : State) : (holdRaw s).rsFc = s.rsFc := rfl
@[simp] theorem holdRaw_bits (s : State) : (holdRaw s).bits = s.bits := rfl
@[simp] theorem holdRaw_raw (s : State) : (holdRaw s).raw = some (rawView s) := rfl
@[simp] theorem holdRaw_bc (s : State) : (holdRaw s).bc = s.bc := rfl
@[simp] theorem holdRaw_err (s : State) : (holdRaw s).err = s.err := rfl
@[simp] theorem holdRaw_halted (s : State) : (holdRaw s).halted = s.halted := rfl
@[simp] theorem holdRaw_pc (s : State) : (holdRaw s).pc = s.pc := rfl
@[simp] theorem holdRaw_cmd (s : State) : (holdRaw s).cmd = s.cmd := rfl
@[simp] theorem holdRaw_res (s : State) : (holdRaw s).res = s.res := rfl
@[simp] theorem holdRaw_dsValidateIn (s : State) : (holdRaw s).dsValidateIn = s.dsValidateIn := rfl
@[simp] theorem holdRaw_dsValuesIn (s : State) : (holdRaw s).dsValuesIn = s.dsValuesIn := rfl
@[simp] theorem holdRaw_dsQueries (s : State) : (holdRaw s).dsQueries = s.dsQueries := rfl
@[simp] theorem holdRaw_dsTick (s : State) : (holdRaw s).dsTick = s.dsTick := rfl
@[simp] theorem holdRaw_cfg (s : State) : (holdRaw s).cfg = s.cfg := rfl

@[simp] theorem setBits_rqV (b : List Bool) (s : State) : (setBits b s).rqV = s.rqV := rfl
@[simp] theorem setBits_rqFc (b : List Bool) (s : State) : (setBits b s).rqFc = s.rqFc := rfl
@[simp] theorem setBits_rqAddr (b : List Bool) (s : State) : (setBits b s).rqAddr = s.rqAddr := rfl
@[simp] theorem setBits_rqCount (b : List Bool) (s : State) : (setBits b s).rqCount = s.rqCount := rfl
@[simp] theorem setBits_rsV (b : List Bool) (s : State) : (setBits b s).rsV = s.rsV := rfl
@[simp] theorem setBits_rsFc (b : List Bool) (s : State) : (setBits b s).rsFc = s.rsFc := rfl
@[simp] theorem setBits_bits (b : List Bool) (s : State) : (setBits b s).bits = some b := rfl
@[simp] theorem setBits_raw (b : List Bool) (s : State) : (setBits b s).raw = none := rfl
@[simp] theorem setBits_bc (b : List Bool) (s : State) : (setBits b s).bc = none := rfl
@[simp] theorem setBits_err (b : List Bool) (s : State) : (setBits b s).err = s.err := rfl
@[simp] theorem setBits_halted (b : List Bool) (s : State) : (setBits b s).halted = s.halted := rfl
@[simp] theorem setBits_pc (b : List Bool) (s : State) : (setBits b s).pc = s.pc := rfl
@[simp] theorem setBits_cmd (b : List Bool) (s : State) : (setBits b s).cmd = s.cmd := rfl
@[simp] theorem setBits_res (b : List Bool) (s : State) : (setBits b s).res = s.res := rfl
@[simp] theorem setBits_dsValidateIn (b : List Bool) (s : State) : (setBits b s).dsValidateIn = s.dsValidateIn := rfl
@[simp] theorem setBits_dsValuesIn (b : List Bool) (s : State) : (setBits b s).dsValuesIn = s.dsValuesIn := rfl
@[simp] theorem setBits_dsQueries (b : List Bool) (s : State) : (setBits b s).dsQueries = s.dsQueries := rfl
@[simp] theorem setBits_dsTick (b : List Bool) (s : State) : (setBits b s).dsTick = s.dsTick := rfl
@[simp] theorem setBits_cfg (b : List Bool) (s : State) : (setBits b s).cfg = s.cfg := rfl

@[simp] theorem setRaw_rqV (r : List Byte) (s : State) : (setRaw r s).rqV = s.rqV := rfl
@[simp] theorem setRaw_rqFc (r : List Byte) (s : State) : (setRaw r s).rqFc = s.rqFc := rfl
@[simp] theorem setRaw_rqAddr (r : List Byte) (s : State) : (setRaw r s).rqAddr = s.rqAddr := rfl
@[simp] theorem setRaw_rqCount (r : List Byte) (s : State) : (setRaw r s).rqCount = s.rqCount := rfl
@[simp] theorem setRaw_rsV (r : List Byte) (s : State) : (setRaw r s).rsV = s.rsV := rfl
@[simp] theorem setRaw_rsFc (r : List Byte) (s : State) : (setRaw r s).rsFc = s.rsFc := rfl
@[simp] theorem setRaw_bits (r : List Byte) (s : State) : (setRaw r s).bits = none := rfl
@[simp] theorem setRaw_raw (r : List Byte) (s : State) : (setRaw r s).raw = some r := rfl
@[simp] theorem setRaw_bc (r : List Byte) (s : State) : (setRaw r s).bc = none := rfl
@[simp] theorem setRaw_err (r : List Byte) (s : State) : (setRaw r s).err = s.err := rfl
@[simp] theorem setRaw_halted (r : List Byte) (s : State) : (setRaw r s).halted = s.halted := rfl
@[simp] theorem setRaw_pc (r : List Byte) (s : State) : (setRaw r s).pc = s.pc := rfl
@[simp] theorem setRaw_cmd (r : List Byte) (s : State) : (setRaw r s).cmd = s.cmd := rfl
@[simp] theorem setRaw_res (r : List Byte) (s : State) : (setRaw r s).res = s.res := rfl
@[simp] theorem setRaw_dsValidateIn (r : List Byte) (s : State) : (setRaw r s).dsValidateIn = s.dsValidateIn := rfl
@[simp] theorem setRaw_dsValuesIn (r : List Byte) (s : State) : (setRaw r s).dsValuesIn = s.dsValuesIn := rfl
@[simp] theorem setRaw_dsQueries (r : List Byte) (s : State) : (setRaw r s).dsQueries = s.dsQueries := rfl
@[simp] theorem setRaw_dsTick (r : List Byte) (s : State) : (setRaw r s).dsTick = s.dsTick := rfl
@[simp] theorem setRaw_cfg (r : List Byte) (s : State) : (setRaw r s).cfg = s.cfg := rfl

@[simp] theorem openResponse_rqV (fc : Byte) (s : State) : (openResponse fc s).rqV = s.rqV := rfl
@[simp] theorem openResponse_rqFc (fc : Byte) (s : State) : (openResponse fc s).rqFc = s.rqFc := rfl
@[simp] theorem openResponse_rqAddr (fc : Byte) (s : State) : (openResponse fc s).rqAddr = s.rqAddr := rfl
@[simp] theorem openResponse_rqCount (fc : Byte) (s : State) : (openResponse fc s).rqCount = s.rqCount := rfl
@[simp] theorem openResponse_rsV (fc : Byte) (s : State) : (openResponse fc s).rsV = true := rfl
@[simp] theorem openResponse_rsFc (fc : Byte) (s : State) : (openResponse fc s).rsFc = fc := rfl
@[simp] theorem openResponse_bits (fc : Byte) (s : State) : (openResponse fc s).bits = none := rfl
@[simp] theorem openResponse_raw (fc : Byte) (s : State) : (openResponse fc s).raw = none := rfl
@[simp] theorem openResponse_bc (fc : Byte) (s : State) : (openResponse fc s).bc = none := rfl
@[simp] theorem openResponse_err (fc : Byte) (s : State) : (openResponse fc s).err = s.err := rfl
@[simp] theorem openResponse_halted (fc : Byte) (s : State) : (openResponse fc s).halted = s.halted := rfl
@[simp] theorem openResponse_pc (fc : Byte) (s : State) : (openResponse fc s).pc = s.pc := rfl
@[simp] theorem openResponse_cmd (fc : Byte) (s : State) : (openResponse fc s).cmd = s.cmd := rfl
@[simp] theorem openResponse_res (fc : Byte) (s : State) : (openResponse fc s).res = s.res := rfl
@[simp] theorem openResponse_dsValidateIn (fc : Byte) (s : State) : (openResponse fc s).dsValidateIn = s.dsValidateIn := rfl
@[simp] theorem openResponse_dsValuesIn (fc : Byte) (s : State) : (openResponse fc s).dsValuesIn = s.dsValuesIn := rfl
@[simp] theorem openResponse_dsQueries (fc : Byte) (s : State) : (openResponse fc s).dsQueries = s.dsQueries := rfl
@[simp] theorem openResponse_dsTick (fc : Byte) (s : State) : (openResponse fc s).dsTick = s.dsTick := rfl
@[simp] theorem openResponse_cfg (fc : Byte) (s : State) : (openResponse fc s).cfg = s.cfg := rfl

@[simp] theorem askValidate_rqV (s : State) : (askValidate s).rqV = s.rqV := rfl
@[simp] theorem askValidate_rqFc (s : State) : (askValidate s).rqFc = s.rqFc := rfl
@[simp] theorem askValidate_rqAddr (s : State) : (askValidate s).rqAddr = s.rqAddr := rfl
@[simp] theorem askValidate_rqCount (s : State) : (askValidate s).rqCount = s.rqCount := rfl
@[simp] theorem askValidate_rsV (s : State) : (askValidate s).rsV = s.rsV := rfl
@[simp] theorem askValidate_rsFc (s : State) : (askValidate s).rsFc = s.rsFc := rfl
@[simp] theorem askValidate_bits (s : State) : (askValidate s).bits = s.bits := rfl
@[simp] theorem askValidate_raw (s : State) : (askValidate s).raw = s.raw := rfl
@[simp] theorem askValidate_bc (s : State) : (askValidate s).bc = s.bc := rfl
@[simp] theorem askValidate_err (s : State) : (askValidate s).err = s.err := rfl
@[simp] theorem askValidate_halted (s : State) : (askValidate s).halted = s.halted := rfl
@[simp] theorem askValidate_pc (s : State) : (askValidate s).pc = s.pc := rfl
@[simp] theorem askValidate_cmd (s : State) : (askValidate s).cmd = s.cmd := rfl
@[simp] theorem askValidate_res (s : State) : (askValidate s).res = s.res := rfl
@[simp] theorem askValidate_dsValidateIn (s : State) : (askValidate s).dsValidateIn = s.dsValidateIn.tail := rfl
@[simp] theorem askValidate_dsValuesIn (s : State) : (askValidate s).dsValuesIn = s.dsValuesIn := rfl
@[simp] theorem askValidate_dsQueries (s : State) : (askValidate s).dsQueries = s.dsQueries ++ [dsQuery .validate s] := rfl
@[simp] theorem askValidate_dsTick (s : State) : (askValidate s).dsTick = s.dsTick + 1 := rfl
@[simp] theorem askValidate_cfg (s : State) : (askValidate s).cfg = s.cfg := rfl

@[simp] theorem askGetValues_rqV (s : State) : (askGetValues s).rqV = s.rqV := rfl
@[simp] theorem askGetValues_rqFc (s : State) : (askGetValues s).rqFc = s.rqFc := rfl
@[simp] theorem askGetValues_rqAddr (s : State) : (askGetValues s).rqAddr = s.rqAddr := rfl
@[simp] theorem askGetValues_rqCount (s : State) : (askGetValues s).rqCount = s.rqCount := rfl
@[simp] theorem askGetValues_rsV (s : State) : (askGetValues s).rsV = s.rsV := rfl
@[simp] theorem askGetValues_rsFc (s : State) : (askGetValues s).rsFc = s.rsFc := rfl
@[simp] theorem askGetValues_bits (s : State) : (askGetValues s).bits = s.bits := rfl
@[simp] theorem askGetValues_raw (s : State) : (askGetValues s).raw = s.raw := rfl
@[simp] theorem askGetValues_bc (s : State) : (askGetValues s).bc = s.bc := rfl
@[simp] theorem askGetValues_err (s : State) : (askGetValues s).err = s.err := rfl
@[simp] theorem askGetValues_halted (s : State) : (askGetValues s).halted = s.halted := rfl
@[simp] theorem askGetValues_pc (s : State) : (askGetValues s).pc = s.pc := rfl
@[simp] theorem askGetValues_cmd (s : State) : (askGetValues s).cmd = s.cmd := rfl
@[simp] theorem askGetValues_res (s : State) : (askGetValues s).res = s.res := rfl
@[simp] theorem askGetValues_dsValidateIn (s : State) : (askGetValues s).dsValidateIn = s.dsValidateIn := rfl
@[simp] theorem askGetValues_dsValuesIn (s : State) : (askGetValues s).dsValuesIn = s.dsValuesIn.tail := rfl
@[simp] theorem askGetValues_dsQueries (s : State) : (askGetValues s).dsQueries = s.dsQueries ++ [dsQuery .getValues s] := rfl
@[simp] theorem askGetValues_dsTick (s : State) : (askGetValues s).dsTick = s.dsTick + 1 := rfl
@[simp] theorem askGetValues_cfg (s : State) : (askGetValues s).cfg = s.cfg := rfl

@[simp] theorem hostWrite_rqV (bs : List Byte) (s : State) : (hostWrite bs s).rqV = s.rqV := rfl
@[simp] theorem hostWrite_rqFc (bs : List Byte) (s : State) : (hostWrite bs s).rqFc = s.rqFc := rfl
@[simp] theorem hostWrite_rqAddr (bs : List Byte) (s : State) : (hostWrite bs s).rqAddr = s.rqAddr := rfl
@[simp] theorem hostWrite_rqCount (bs : List Byte) (s : State) : (hostWrite bs s).rqCount = s.rqCount := rfl
@[simp] theorem hostWrite_rsV (bs : List Byte) (s : State) : (hostWrite bs s).rsV = s.rsV := rfl
@[simp] theorem hostWrite_rsFc (bs : List Byte) (s : State) : (hostWrite bs s).rsFc = s.rsFc := rfl
@[simp] theorem hostWrite_bits (bs : List Byte) (s : State) : (hostWrite bs s).bits = s.bits := rfl
@[simp] theorem hostWrite_raw (bs : List Byte) (s : State) : (hostWrite bs s).raw = s.raw := rfl
@[simp] theorem hostWrite_bc (bs : List Byte) (s : State) : (hostWrite bs s).bc = s.bc := rfl
@[simp] theorem hostWrite_err (bs : List Byte) (s : State) : (hostWrite bs s).err = s.err := rfl
@[simp] theorem hostWrite_halted (bs : List Byte) (s : State) : (hostWrite bs s).halted = s.halted := rfl
@[simp] theorem hostWrite_pc (bs : List Byte) (s : State) : (hostWrite bs s).pc = s.pc := rfl
@[simp] theorem hostWrite_cmd (bs : List Byte) (s : State) : (hostWrite bs s).cmd = s.cmd ++ bs := rfl
@[simp] theorem hostWrite_res (bs : List Byte) (s : State) : (hostWrite bs s).res = s.res := rfl
@[simp] theorem hostWrite_dsValidateIn (bs : List Byte) (s : State) : (hostWrite bs s).dsValidateIn = s.dsValidateIn := rfl
@[simp] theorem hostWrite_dsValuesIn (bs : List Byte) (s : State) : (hostWrite bs s).dsValuesIn = s.dsValuesIn := rfl
@[simp] theorem hostWrite_dsQueries (bs : List Byte) (s : State) : (hostWrite bs s).dsQueries = s.dsQueries := rfl
@[simp] theorem hostWrite_dsTick (bs : List Byte) (s : State) : (hostWrite bs s).dsTick = s.dsTick := rfl
@[simp] theorem hostWrite_cfg (bs : List Byte) (s : State) : (hostWrite bs s).cfg = s.cfg := rfl

@[simp] theorem holdByteCount_rqV (s : State) : (holdByteCount s).rqV = s.rqV := by
  unfold holdByteCount; split <;> rfl
@[simp] theorem holdByteCount_rqFc (s : State) : (holdByteCount s).rqFc = s.rqFc := by
  unfold holdByteCount; split <;> rfl
@[simp] theorem holdByteCount_rqAddr (s : State) : (holdByteCount s).rqAddr = s.rqAddr := by
  unfold holdByteCount; split <;> rfl
@[simp] theorem holdByteCount_rqCount (s : State) : (holdByteCount s).rqCount = s.rqCount := by
  unfold holdByteCount; split <;> rfl
@[simp] theorem holdByteCount_rsV (s : State) : (holdByteCount s).rsV = s.rsV := by
  unfold holdByteCount; split <;> rfl
@[simp] theorem holdByteCount_rsFc (s : State) : (holdByteCount s).rsFc = s.rsFc := by
  unfold holdByteCount; split <;> rfl
@[simp] theorem holdByteCount_bits (s : State) : (holdByteCount s).bits = s.bits := by
  unfold holdByteCount; split <;> rfl
@[simp] theorem holdByteCount_err (s : State) : (holdByteCount s).err = s.err := by
  unfold holdByteCount; split <;> rfl
@[simp] theorem holdByteCount_halted (s : State) : (holdByteCount s).halted = s.halted := by
  unfold holdByteCount; split <;> rfl
@[simp] theorem holdByteCount_pc (s : State) : (holdByteCount s).pc = s.pc := by
  unfold holdByteCount; split <;> rfl
@[simp] theorem holdByteCount_cmd (s : State) : (holdByteCount s).cmd = s.cmd := by
  unfold holdByteCount; split <;> rfl
@[simp] theorem holdByteCount_res (s : State) : (holdByteCount s).res = s.res := by
  unfold holdByteCount; split <;> rfl
@[simp] theorem holdByteCount_dsValidateIn (s : State) : (holdByteCount s).dsValidateIn = s.dsValidateIn := by
  unfold holdByteCount; split <;> rfl
@[simp] theorem holdByteCount_dsValuesIn (s : State) : (holdByteCount s).dsValuesIn = s.dsValuesIn := by
  unfold holdByteCount; split <;> rfl
@[simp] theorem holdByteCount_dsQueries (s : State) : (holdByteCount s).dsQueries = s.dsQueries := by
  unfold holdByteCount; split <;> rfl
@[simp] theorem holdByteCount_dsTick (s : State) : (holdByteCount s).dsTick = s.dsTick := by
  unfold holdByteCount; split <;> rfl
@[simp] theorem holdByteCount_cfg (s : State) : (holdByteCount s).cfg = s.cfg := by
  unfold holdByteCount; split <;> rfl

/-- After materialising the count it is held, with the value `byteCount` gives (R120). -/
@[simp] theorem holdByteCount_bc (s : State) : (holdByteCount s).bc = some (byteCount s) := by
  unfold holdByteCount byteCount; split <;> simp_all

/-- A raw view that is held stays as it is when the count is materialised (R120). -/
theorem holdByteCount_raw_of_held (s : State) (r : List Byte) (h : s.raw = some r) : (holdByteCount s).raw = some r := by
  unfold holdByteCount; split <;> simp [rawView, h]

end Sys2Proof.Machine
end

