-- ==== Sys2Proof/Laws/Ops.lean ====
section
/-! SUPPORT. One lemma per shared operation: everything it can do. -/

namespace Sys2Proof.Machine

@[simp] theorem complete_next (s t : State) (e : CmdEnd) : complete s e = .next t ↔ t = finish s e := by
  unfold complete
  constructor
  · rintro h; cases h; rfl
  · rintro rfl; rfl

@[simp] theorem finish_ret (s t : State) (p : List Byte) : finish s (.ret p t) = emit ⟨.ok, p⟩ t := rfl
@[simp] theorem finish_exc (s : State) (o : ExcOutcome) : finish s (.exc o) = emit ⟨.exc o, []⟩ s := rfl
@[simp] theorem finish_raise (s : State) (c : Cause) : finish s (.raise c) = takeFault c s := rfl

/-- The request frame's instance test: without an instance the command faults (R176). -/
theorem needRequest_cases (s : State) (e : CmdEnd) :
    (s.rqV = true ∧ needRequest s e = e) ∨ (s.rqV = false ∧ needRequest s e = .raise .noInst) := by
  cases h : s.rqV <;> simp [needRequest, h]

/-- The response frame's instance test: without an instance the command faults (R120, R176). -/
theorem needResponse_cases (s : State) (e : CmdEnd) :
    (s.rsV = true ∧ needResponse s e = e) ∨ (s.rsV = false ∧ needResponse s e = .raise .noInst) := by
  cases h : s.rsV <;> simp [needResponse, h]

@[simp] theorem bitsFit_iff (s : State) (n : Nat) : bitsFit s n = true ↔ n ≤ 8 * s.cfg.capBytes := decide_eq_true_iff

@[simp] theorem rawFits_iff (s : State) (n : Nat) : rawFits s n = true ↔ n ≤ s.cfg.capBytes := decide_eq_true_iff

/-- What writing one bit can do (R128). -/
theorem writeBit_cases (n : Half) (v : Bool) (s : State) :
    (n.toNat < (bitsView s).length ∧ writeBit n v s = .ret [] (setBits ((bitsView s).set n.toNat v) s)) ∨
    ((bitsView s).length ≤ n.toNat ∧ writeBit n v s = .raise .index) := by
  by_cases h : n.toNat < (bitsView s).length
  · exact .inl ⟨h, by simp [writeBit, h]⟩
  · exact .inr ⟨by omega, by simp [writeBit, h]⟩

/-- What constructing a response can do (R122). -/
theorem construct_cases (fc : Byte) (v : Values) (s : State) :
    (v = .other ∧ construct fc v s = .raise .construction) ∨
    (∃ e, v = .seq e ∧ e.length ≤ 8 * s.cfg.capBytes ∧
      construct fc v s = .ret [] (setBits (bitsOfElements e) (openResponse fc s))) ∨
    (∃ r, v = .blob r ∧ r.length ≤ s.cfg.capBytes ∧ construct fc v s = .ret [] (setRaw r (openResponse fc s))) ∨
    ((∃ e, v = .seq e ∧ 8 * s.cfg.capBytes < e.length) ∨ (∃ r, v = .blob r ∧ s.cfg.capBytes < r.length)) ∧
      construct fc v s = .raise .capacity := by
  cases v with
  | other => exact .inl ⟨rfl, rfl⟩
  | seq e =>
    by_cases h : e.length ≤ 8 * s.cfg.capBytes
    · exact .inr (.inl ⟨e, rfl, h, by simp [construct, bitsFit, h]⟩)
    · exact .inr (.inr (.inr ⟨.inl ⟨e, rfl, by omega⟩, by simp [construct, bitsFit, h]⟩))
  | blob r =>
    by_cases h : r.length ≤ s.cfg.capBytes
    · exact .inr (.inr (.inl ⟨r, rfl, h, by simp [construct, rawFits, h]⟩))
    · exact .inr (.inr (.inr ⟨.inr ⟨r, rfl, by omega⟩, by simp [construct, rawFits, h]⟩))

/-- The tags are 1 and 2 (R6). -/
theorem legalFc_iff (fc : Byte) : legalFc fc = true ↔ fc = 1 ∨ fc = 2 := by
  simp [legalFc, Config.fcCoils, Config.fcDiscrete]

/-- The count bound of R150. -/
theorem countInRange_iff (c : Half) : countInRange c = true ↔ 1 ≤ c.toNat ∧ c.toNat ≤ 2000 := by
  unfold countInRange Config.countMin Config.countMax; exact decide_eq_true_iff

@[simp] theorem bitsView_of_bits (s : State) (b : List Bool) (h : s.bits = some b) : bitsView s = b := by
  simp [bitsView, h]

@[simp] theorem rawView_of_raw (s : State) (r : List Byte) (h : s.raw = some r) : rawView s = r := by
  simp [rawView, h]

/-- What materialising the byte count can do (R120). -/
theorem holdByteCount_cases (s : State) :
    (∃ n, s.bc = some n ∧ byteCount s = n ∧ holdByteCount s = s) ∨
    (s.bc = none ∧ byteCount s = (rawView s).length ∧
      holdByteCount s = { s with raw := some (rawView s), bc := some (rawView s).length }) := by
  cases h : s.bc with
  | some n => exact .inl ⟨n, rfl, by simp [byteCount, h], by simp [holdByteCount, h]⟩
  | none => exact .inr ⟨rfl, by simp [byteCount, h], by simp [holdByteCount, h, holdRaw]⟩

end Sys2Proof.Machine
end

