-- ==== Sys2Proof/Laws/PerInstr.lean ====
section
/-! SUPPORT. The per-command family EncodedForm: a command's encoding begins with its opcode byte and is as long as its
format says (spec/30_encoding.md R71, R76). -/

namespace Sys2Proof.Laws.EncodedForm

open Sys2Proof

/-- The opcode byte comes first, and the encoding has the command's length. -/
def Statement (i : Instr) : Prop := (encode i).head? = some i.opcode.code ∧ (encode i).length = i.byteLength

theorem pack (e : List Byte) : Statement (.pack e) := ⟨rfl, by simp [encode, encodeOperands, encodePayload, Instr.byteLength]; omega⟩
theorem unpack (r : List Byte) : Statement (.unpack r) := ⟨rfl, by simp [encode, encodeOperands, encodePayload, Instr.byteLength]; omega⟩
theorem rqNew (fc : Byte) (a c : Half) : Statement (.rqNew fc a c) := ⟨rfl, rfl⟩
theorem rqEnc : Statement .rqEnc := ⟨rfl, rfl⟩
theorem rqDec (d : List Byte) : Statement (.rqDec d) := ⟨rfl, by simp [encode, encodeOperands, encodePayload, Instr.byteLength]; omega⟩
theorem rsClr (fc : Byte) : Statement (.rsClr fc) := ⟨rfl, rfl⟩
theorem rsNew (fc k : Byte) (p : List Byte) : Statement (.rsNew fc k p) := ⟨rfl, by simp [encode, encodeOperands, encodePayload, Instr.byteLength]; omega⟩
theorem rsGetBits : Statement .rsGetBits := ⟨rfl, rfl⟩
theorem rsGetRaw : Statement .rsGetRaw := ⟨rfl, rfl⟩
theorem rsGetBc : Statement .rsGetBc := ⟨rfl, rfl⟩
theorem rsSetBits (e : List Byte) : Statement (.rsSetBits e) := ⟨rfl, by simp [encode, encodeOperands, encodePayload, Instr.byteLength]; omega⟩
theorem rsSetRaw (r : List Byte) : Statement (.rsSetRaw r) := ⟨rfl, by simp [encode, encodeOperands, encodePayload, Instr.byteLength]; omega⟩
theorem rsSetBit (n : Half) (v : Byte) : Statement (.rsSetBit n v) := ⟨rfl, rfl⟩
theorem rsRstBit (n : Half) : Statement (.rsRstBit n) := ⟨rfl, rfl⟩
theorem rsGetBit (n : Half) : Statement (.rsGetBit n) := ⟨rfl, rfl⟩
theorem rsEnc : Statement .rsEnc := ⟨rfl, rfl⟩
theorem rsDec (d : List Byte) : Statement (.rsDec d) := ⟨rfl, by simp [encode, encodeOperands, encodePayload, Instr.byteLength]; omega⟩
theorem execute : Statement .execute := ⟨rfl, rfl⟩
theorem rdReg (r : Byte) : Statement (.rdReg r) := ⟨rfl, rfl⟩

end Sys2Proof.Laws.EncodedForm
end

