-- ==== Sys2Proof/Laws/Step.lean ====
section
/-! SUPPORT. What a step can do and how a command can end, each said once; the invariant proofs cite these and never unfold
the meanings. -/

namespace Sys2Proof.Machine

theorem SameRequest.trans {a b c : State} (h : SameRequest a b) (g : SameRequest b c) : SameRequest a c := by
  unfold SameRequest at *; simp_all

theorem SameResponse.trans {a b c : State} (h : SameResponse a b) (g : SameResponse b c) : SameResponse a c := by
  unfold SameResponse at *; simp_all

theorem SameDs.trans {a b c : State} (h : SameDs a b) (g : SameDs b c) : SameDs a c := by
  unfold SameDs at *; simp_all

/-- The body has `RQ_BODY_LEN` bytes (R6, R81). -/
theorem requestBody_length (a c : Half) : (requestBody a c).length = Config.rqBodyLen := rfl

/-- A body is taken exactly when it has `RQ_BODY_LEN` bytes (R112). -/
theorem requestFields_eq_none (data : List Byte) : requestFields data = none ↔ data.length ≠ Config.rqBodyLen := by
  unfold requestFields Config.rqBodyLen
  split <;> simp_all
  rename_i h
  intro hl
  match data, hl with
  | [a, b, c, d], _ => exact h a b c d rfl

/-- A step runs a decoded command, or takes the fault of an illegal opcode. -/
theorem step_cases (s t : State) (h : step s = .next t) :
    s.halted = false ∧
    ((∃ i rest, decode s.cmd = .command i rest ∧ exec i (advance i rest s) = .next t) ∨
     ((∃ b, decode s.cmd = .illegal b) ∧ t = takeIllegal s)) := by
  unfold step at h
  split at h
  · cases h
  · rename_i hh
    refine ⟨by simpa using hh, ?_⟩
    split at h
    · exact .inl ⟨_, _, by assumption, h⟩
    · cases h
    · cases h; exact .inr ⟨⟨_, by assumption⟩, rfl⟩

/-- What a command's body may write where it returns normally: no sequencing state, no `ERR`, no record; the frame of another
family not at all. -/
structure BodyWrites (i : Instr) (u t : State) : Prop where
  sequencing : SameSequencing u t
  err : t.err = u.err
  res : t.res = u.res
  ds : SameDs u t
  request : u.rqV = true → t.rqV = true
  response : u.rsV = true → t.rsV = true
  tag : (∀ fc a c, i ≠ .rqNew fc a c) → t.rqV = u.rqV ∧ t.rqFc = u.rqFc
  fields : (∀ fc a c, i ≠ .rqNew fc a c) → (∀ d, i ≠ .rqDec d) → SameRequest u t
  frame : i.opcode ∈ [Opcode.pack, .unpack, .rqNew, .rqEnc, .rqDec, .rdReg] → SameResponse u t

/-- How a command ends: only `EXEC` begins from a state in which the datastore has been asked, only `EXEC` ends in an
exception outcome, no command ends in `ILLCMD`, and a normal end writes what `BodyWrites` says. -/
theorem exec_ends (i : Instr) (s : State) :
    ∃ u e, exec i s = complete u e ∧
      (u = s ∨ (i = .execute ∧ (u = askValidate s ∨ u = askGetValues (askValidate s)))) ∧
      (∀ o, e = .exc o → i = .execute) ∧ e ≠ .raise .illCmd ∧
      ∀ p t, e = .ret p t → BodyWrites i u t := by
  suffices h : ∃ u e, exec i s = complete u e ∧
      (u = s ∨ (i = .execute ∧ (u = askValidate s ∨ u = askGetValues (askValidate s)))) ∧
      (∀ o, e = .exc o → i = .execute) ∧ e ≠ .raise .illCmd ∧
      ∀ p t, e = .ret p t → SameSequencing u t ∧ t.err = u.err ∧ t.res = u.res ∧ SameDs u t ∧
        (u.rqV = true → t.rqV = true) ∧ (u.rsV = true → t.rsV = true) ∧
        ((∀ fc a c, i ≠ .rqNew fc a c) → t.rqV = u.rqV ∧ t.rqFc = u.rqFc) ∧
        ((∀ fc a c, i ≠ .rqNew fc a c) → (∀ d, i ≠ .rqDec d) → SameRequest u t) ∧
        (i.opcode ∈ [Opcode.pack, .unpack, .rqNew, .rqEnc, .rqDec, .rdReg] → SameResponse u t) by
    obtain ⟨u, e, h1, h2, h3, h4, h5⟩ := h
    refine ⟨u, e, h1, h2, h3, h4, fun p t h => ?_⟩
    obtain ⟨a, b, c, d, f, g, k, l, m⟩ := h5 p t h
    exact ⟨a, b, c, d, f, g, k, l, m⟩
  have nr : ∀ (s : State) e, needRequest s e = if s.rqV then e else .raise .noInst := fun _ _ => rfl
  have ns : ∀ (s : State) e, needResponse s e = if s.rsV then e else .raise .noInst := fun _ _ => rfl
  cases i <;> unfold exec <;> dsimp only
  case execute =>
    unfold execExec
    split
    · split
      · split
        · refine ⟨_, _, rfl, .inr ⟨rfl, .inr rfl⟩, by simp, ?_, ?_⟩
          · unfold construct; split <;> (try split) <;> simp
          · rcases construct_cases s.rqFc (valuesAnswer (askValidate s)) (askGetValues (askValidate s)) with
              ⟨_, h⟩ | ⟨e, _, _, h⟩ | ⟨e, _, _, h⟩ | ⟨_, h⟩ <;> rw [h] <;> intro p t ht <;> cases ht <;>
              simp [SameDs, SameSequencing, SameRequest, Instr.opcode]
        · exact ⟨_, _, rfl, .inr ⟨rfl, .inl rfl⟩, by simp, by simp, by simp⟩
      · exact ⟨_, _, rfl, .inl rfl, by simp, by simp, by simp⟩
    · exact ⟨_, _, rfl, .inl rfl, by simp, by simp, by simp⟩
  all_goals refine ⟨s, _, rfl, .inl rfl, ?_, ?_, ?_⟩
  all_goals try simp only [nr, ns, construct, writeBit]
  all_goals repeat' split
  all_goals intros
  all_goals first
    | (simp; done)
    | (rename_i h; cases h; done)
    | (rename_i h; cases h; simp [SameDs, SameSequencing, SameRequest, SameResponse, Instr.opcode])

end Sys2Proof.Machine
end

