-- ==== Sys2Proof/Tests/Slice0.lean ====
section
/-! SUPPORT. The model's own tests. Expected results are those of spec/95_test_vectors.md (the vector's name stands in the
comment) and of the tables of 30_encoding.md; then one witness per statement that has hypotheses. -/

namespace Sys2Proof.Tests

open Sys2Proof Sys2Proof.Machine

/-! ### Small start states -/

/-- Two arbitrary numbers stand for the OPEN parameters; the capacity is the reference one. -/
def cfg : Config := ⟨256, 0x0A0B, 0x0102⟩

def start : State := State.resetWith cfg

/-- A response built from bits, with tag 1. -/
def hasBits (b : List Bool) : State := { start with rsV := true, rsFc := 1, bits := some b }

/-- A response built from raw bytes, with tag 1. -/
def hasRaw (r : List Byte) : State := { start with rsV := true, rsFc := 1, raw := some r }

/-- Both views held, and the count. -/
def hasAll : State := { start with rsV := true, rsFc := 1, bits := some [true, false, true], raw := some [5], bc := some 1 }

/-- A request, with the answers the datastore has ready. -/
def asking (fc : Byte) (a c : Half) (ok : List Bool) (v : List Values) : State :=
  { start with rqV := true, rqFc := fc, rqAddr := a, rqCount := c, dsValidateIn := ok, dsValuesIn := v }

/-- What a step or a command gives in its next state. -/
def seen {α : Type} (f : State → α) : Host.Outcome State Fault Refusal → Option α
  | .next t => some (f t)
  | .fault _ => none
  | .refused _ => none

/-- The records as bytes, the status and the flags a test looks at. -/
def records (t : State) : List (List Byte) := t.res.map Record.bytes

/-! ### Well-formedness: a payload of 65536 bytes has no `len` field (R72) -/

theorem test_wf_fits : Instr.wellFormed (.pack (List.replicate 65535 0)) = true := by
  rw [Instr.wellFormed, payloadFits, List.length_replicate]; rfl
theorem test_wf_pack : Instr.wellFormed (.pack (List.replicate 65536 0)) = false := by
  rw [Instr.wellFormed, payloadFits, List.length_replicate]; rfl
theorem test_wf_unpack : Instr.wellFormed (.unpack (List.replicate 65536 0)) = false := by
  rw [Instr.wellFormed, payloadFits, List.length_replicate]; rfl
theorem test_wf_rqDec : Instr.wellFormed (.rqDec (List.replicate 65536 0)) = false := by
  rw [Instr.wellFormed, payloadFits, List.length_replicate]; rfl
theorem test_wf_rsNew : Instr.wellFormed (.rsNew 1 0 (List.replicate 65536 0)) = false := by
  rw [Instr.wellFormed, payloadFits, List.length_replicate]; rfl
theorem test_wf_rsSetBits : Instr.wellFormed (.rsSetBits (List.replicate 65536 0)) = false := by
  rw [Instr.wellFormed, payloadFits, List.length_replicate]; rfl
theorem test_wf_rsSetRaw : Instr.wellFormed (.rsSetRaw (List.replicate 65536 0)) = false := by
  rw [Instr.wellFormed, payloadFits, List.length_replicate]; rfl
theorem test_wf_rsDec : Instr.wellFormed (.rsDec (List.replicate 65536 0)) = false := by
  rw [Instr.wellFormed, payloadFits, List.length_replicate]; rfl

/-! ### Decoding: every command's word, written out from the spec (R84) -/

theorem test_decode_pack : decode [0x10, 0x00, 0x03, 0x01, 0x00, 0x01] = .command (.pack [1, 0, 1]) [] := by decide
theorem test_decode_unpack : decode [0x11, 0x00, 0x01, 0x05] = .command (.unpack [0x05]) [] := by decide
theorem test_decode_rqNew :
    decode [0x20, 0x01, 0x00, 0x13, 0x00, 0x25] = .command (.rqNew 1 0x0013 0x0025) [] := by decide
theorem test_decode_rqEnc : decode [0x21] = .command .rqEnc [] := by decide
theorem test_decode_rqDec :
    decode [0x22, 0x00, 0x04, 0x00, 0x13, 0x00, 0x25] = .command (.rqDec [0x00, 0x13, 0x00, 0x25]) [] := by decide
theorem test_decode_rsClr : decode [0x30, 0x02] = .command (.rsClr 2) [] := by decide
theorem test_decode_rsNew_bits :
    decode [0x31, 0x01, 0x00, 0x00, 0x03, 0x01, 0x00, 0x01] = .command (.rsNew 1 0 [1, 0, 1]) [] := by decide
theorem test_decode_rsNew_raw :
    decode [0x31, 0x01, 0x01, 0x00, 0x01, 0x05] = .command (.rsNew 1 1 [0x05]) [] := by decide
theorem test_decode_rsGetBits : decode [0x32] = .command .rsGetBits [] := by decide
theorem test_decode_rsGetRaw : decode [0x33] = .command .rsGetRaw [] := by decide
theorem test_decode_rsGetBc : decode [0x34] = .command .rsGetBc [] := by decide
theorem test_decode_rsSetBits : decode [0x35, 0x00, 0x02, 0x01, 0x01] = .command (.rsSetBits [1, 1]) [] := by decide
theorem test_decode_rsSetRaw : decode [0x36, 0x00, 0x02, 0xFF, 0x01] = .command (.rsSetRaw [0xFF, 0x01]) [] := by decide
theorem test_decode_rsSetBit : decode [0x37, 0x00, 0x02, 0x01] = .command (.rsSetBit 2 1) [] := by decide
theorem test_decode_rsRstBit : decode [0x38, 0x00, 0x02] = .command (.rsRstBit 2) [] := by decide
theorem test_decode_rsGetBit : decode [0x39, 0x01, 0x02] = .command (.rsGetBit 0x0102) [] := by decide
theorem test_decode_rsEnc : decode [0x3A] = .command .rsEnc [] := by decide
theorem test_decode_rsDec : decode [0x3B, 0x00, 0x02, 0x01, 0x05] = .command (.rsDec [0x01, 0x05]) [] := by decide
theorem test_decode_execute : decode [0x40] = .command .execute [] := by decide
theorem test_decode_rdReg : decode [0x50, 0x0A] = .command (.rdReg 0x0A) [] := by decide

/-- G: payload bytes are never decoded as opcodes, and what follows the command is left. -/
theorem test_decode_payload_is_data : decode [0x11, 0x00, 0x01, 0xFF, 0x21] = .command (.unpack [0xFF]) [0x21] := by decide

/-- G: the incomplete streams. -/
theorem test_decode_incomplete :
    ([[0x10], [0x10, 0x00], [0x10, 0x00, 0x03, 0x01, 0x00], [0x31, 0x01, 0x00, 0x00], [0x20, 0x01, 0x00],
      [0x37, 0x00, 0x01], [0x50]] : List (List Byte)).all (fun bs => decode bs == .incomplete) = true := by decide

/-- G: the illegal opcodes at the edges of the map. -/
theorem test_decode_illegal :
    ([0x00, 0x0F, 0x12, 0x1F, 0x23, 0x2F, 0x3C, 0x3F, 0x41, 0x4F, 0x51, 0xFF] : List Byte).all
      (fun b => decode [b] == .illegal b) = true := by decide

/-- Every row of spec/opcode_table.json is read as its own command, its other bytes zero. -/
theorem test_table_rows :
    ([0x10, 0x11, 0x20, 0x21, 0x22, 0x30, 0x31, 0x32, 0x33, 0x34, 0x35, 0x36, 0x37, 0x38, 0x39, 0x3A, 0x3B, 0x40, 0x50].map
      (fun w => (decodeTableWord 8 w).map Instr.opcode)) = opcodeRows.map some := by decide

/-- Every row of the table, placed for the fetch, runs as the first command after reset. -/
theorem test_rows_run_from_reset :
    opcodeRows.all (fun o => (seen State.pc (step (State.reset.withFetchWord 8 o.code.toNat))).isSome) = true := by decide

/-- R38: from reset the block waits; a word placed for the fetch runs as the first command. -/
theorem test_fetch_from_reset :
    step State.reset = .fault .awaitingCommand ∧
    seen records (step (State.reset.withFetchWord 8 0x32)) = some [[0x86, 0x00, 0x00]] := ⟨rfl, by decide⟩

/-- R84: `RS.NEW 1, kind=7 {3F 80 00 00}` and a number too large for its field. -/
theorem test_assemble :
    assemble ⟨.rsNew, [.number 1, .kindIs 7 [0x3F, 0x80, 0, 0]]⟩ = some (.rsNew 1 7 [0x3F, 0x80, 0, 0]) ∧
    assemble ⟨.rsClr, [.number 256]⟩ = none := by decide

/-! ### The codec -/

/-- B2 to B10. -/
theorem test_pack :
    pack [true, false, true] = [0x05] ∧ pack [false, false, false, false, false, false, false, true] = [0x80] ∧
    pack [true, true, true, true, true, true, true, true, true] = [0xFF, 0x01] ∧
    pack [false, true, false, true, false, true, false, true, true, true] = [0xAA, 0x03] := by decide

/-- B15. -/
theorem test_unpack :
    unpack [0x01, 0x80] = [true, false, false, false, false, false, false, false,
      false, false, false, false, false, false, false, true] := by decide

/-! ### One step each -/

/-- B33. -/
theorem test_pack_command :
    seen records (step (hostWrite [0x10, 0x00, 0x03, 0x01, 0x00, 0x01] start)) = some [[0x00, 0x00, 0x01, 0x05]] := by decide

/-- B39: element bytes above 1 read as true. -/
theorem test_pack_elements :
    seen records (step (hostWrite [0x10, 0x00, 0x04, 0x02, 0x00, 0xFF, 0x80] start)) = some [[0x00, 0x00, 0x01, 0x0D]] := by
  decide

/-- B43. -/
theorem test_unpack_command :
    seen records (step (hostWrite [0x11, 0x00, 0x01, 0x05] start)) =
      some [[0x00, 0x00, 0x08, 0x01, 0x00, 0x01, 0x00, 0x00, 0x00, 0x00, 0x00]] := by decide

/-- C1. -/
theorem test_rqNew :
    seen (fun t => (t.rqV, t.rqFc, t.rqAddr, t.rqCount, t.pc)) (step (hostWrite [0x20, 0x01, 0x00, 0x13, 0x00, 0x25] start)) =
      some (true, 1, 0x0013, 0x0025, 6) := by decide

/-- C11: a failed construction keeps the old instance. -/
theorem test_rqNew_fault :
    seen (fun t => (records t, t.rqFc, t.rqAddr, t.rqCount)) (exec (.rqNew 9 5 6) (asking 2 3 4 [] [])) =
      some ([[0x87, 0x00, 0x00]], 2, 3, 4) := by decide

/-- C3. -/
theorem test_rqEnc :
    seen records (exec .rqEnc (asking 2 65535 2000 [] [])) = some [[0x00, 0x00, 0x04, 0xFF, 0xFF, 0x07, 0xD0]] := by decide

/-- C8. -/
theorem test_rqDec :
    seen (fun t => (t.rqFc, t.rqAddr, t.rqCount)) (exec (.rqDec [0xFF, 0xFF, 0x07, 0xD0]) (asking 2 0 0 [] [])) =
      some (2, 0xFFFF, 0x07D0) := by decide

/-- C9: framing leaves the registers alone and the command is consumed whole. -/
theorem test_rqDec_framing :
    seen (fun t => (records t, t.rqAddr, t.rqCount, t.err, t.pc))
      (step (hostWrite [0x22, 0x00, 0x03, 0x00, 0x13, 0x00] (asking 1 0x0013 0x0025 [] []))) =
      some ([[0x81, 0x00, 0x00]], 0x0013, 0x0025, 0x01, 6) := by decide

/-- D3, D17: a fresh response. -/
theorem test_rsClr : seen (fun t => (t.docState, t.rsFc)) (exec (.rsClr 2) hasAll) = some (some .unset, 2) := by decide

/-- D17. -/
theorem test_rsClr_fault :
    seen (fun t => (records t, t.docState)) (exec (.rsClr 5) (hasRaw [3])) =
      some ([[0x87, 0x00, 0x00]], some (.hasRaw [3])) := by decide

/-- D1. -/
theorem test_rsNew :
    seen (fun t => (records t, t.docState)) (exec (.rsNew 1 0 [1, 0, 1]) start) =
      some ([[0x00, 0x00, 0x00]], some (.hasBits [true, false, true])) := by decide

/-- D14: the construction error makes no instance and keeps the old one. -/
theorem test_rsNew_construction :
    seen (fun t => (records t, t.err, t.rsFc, t.docState)) (exec (.rsNew 2 7 [0x3F, 0x80, 0, 0]) (hasBits [true, true])) =
      some ([[0x82, 0x00, 0x00]], 0x02, 1, some (.hasBits [true, true])) := by decide

/-- D1: with both views held the bits view keeps its own length. -/
theorem test_rsGetBits : seen records (exec .rsGetBits hasAll) = some [[0x00, 0x00, 0x03, 0x01, 0x00, 0x01]] := by decide

/-- D2: the bits view is computed from the raw view and cached beside it. -/
theorem test_rsGetBits_raw :
    seen (fun t => (t.bits, t.raw)) (exec .rsGetBits (hasRaw [0x05])) =
      some (some [true, false, true, false, false, false, false, false], some [0x05]) := by decide

/-- D1. -/
theorem test_rsGetRaw :
    seen (fun t => (records t, t.bits, t.raw)) (exec .rsGetRaw (hasBits [true, false, true])) =
      some ([[0x00, 0x00, 0x01, 0x05]], some [true, false, true], some [0x05]) := by decide

/-- D9. -/
theorem test_rsGetBc :
    seen (fun t => (records t, t.bc)) (exec .rsGetBc (hasBits (List.replicate 9 true))) =
      some ([[0x00, 0x00, 0x02, 0x00, 0x02]], some 2) := by decide

/-- D7: the raw view and the count are dropped. -/
theorem test_rsSetBits :
    seen (fun t => (t.bits, t.raw, t.bc)) (exec (.rsSetBits [1, 1]) hasAll) = some (some [true, true], none, none) := by decide

/-- D7: the bits view and the count are dropped. -/
theorem test_rsSetRaw :
    seen (fun t => (t.bits, t.raw, t.bc)) (exec (.rsSetRaw [0xFF, 0x01]) hasAll) = some (none, some [0xFF, 0x01], none) := by
  decide

/-- D4: on a response held as raw. -/
theorem test_rsSetBit :
    seen (fun t => (t.bits, t.raw)) (exec (.rsSetBit 1 0xFF) (hasRaw [0x05])) =
      some (some [true, true, true, false, false, false, false, false], none) := by decide

/-- D5: no extension, and nothing is invalidated by the fault. -/
theorem test_rsSetBit_index :
    seen (fun t => (records t, t.bits, t.raw, t.bc)) (exec (.rsSetBit 3 1) hasAll) =
      some ([[0x84, 0x00, 0x00]], some [true, false, true], some [5], some 1) := by decide

/-- D6. -/
theorem test_rsRstBit :
    seen (fun t => (t.bits.map pack, t.raw)) (exec (.rsRstBit 0) (hasRaw [0x05])) = some (some [0x04], none) := by decide

/-- D4, and a set bit in the second byte (D7). -/
theorem test_rsGetBit :
    seen records (exec (.rsGetBit 8) (hasRaw [0xFF, 0x01])) = some [[0x00, 0x00, 0x01, 0x01]] ∧
    seen records (exec (.rsGetBit 3) (hasRaw [0x07])) = some [[0x00, 0x00, 0x01, 0x00]] := by decide

/-- D3: on an unset response every index faults, and the materialised view is discarded. -/
theorem test_rsGetBit_index :
    seen (fun t => (records t, t.bits)) (exec (.rsGetBit 0) { start with rsV := true, rsFc := 1 }) =
      some ([[0x84, 0x00, 0x00]], none) := by decide

/-- D1 (the document's example). -/
theorem test_rsEnc :
    seen (fun t => (records t, t.raw, t.bc)) (exec .rsEnc (hasBits [true, false, true])) =
      some ([[0x00, 0x00, 0x02, 0x01, 0x05]], some [0x05], some 1) := by decide

/-- D12: 256 bytes are out of range, and the fault caches nothing. -/
theorem test_rsEnc_range :
    exec .rsEnc (hasRaw (List.replicate 256 0x11)) =
      .next { hasRaw (List.replicate 256 0x11) with err := 0x04, res := [⟨.fault .range, []⟩] } := by
  have h : byteCount (hasRaw (List.replicate 256 0x11)) = 256 := List.length_replicate
  unfold exec execRsEnc
  rw [h]
  rfl

/-- D8: the declared count is returned and stored nowhere. -/
theorem test_rsDec :
    seen (fun t => (records t, t.bits, t.raw, t.bc)) (exec (.rsDec [0x05, 0x01]) hasAll) =
      some ([[0x00, 0x00, 0x01, 0x05]], none, some [0x01], none) := by decide

/-- D8, E7: an empty payload. -/
theorem test_rsDec_empty :
    seen records (exec (.rsDec []) hasAll) = some [[0x81, 0x00, 0x00]] ∧
    seen records (exec (.rsDec []) start) = some [[0x86, 0x00, 0x00]] := by decide

/-- F7: the response, and the queries in their order. -/
theorem test_execute :
    seen (fun t => (records t, t.rsFc, t.docState)) (exec .execute (asking 2 196 22 [true] [.blob [0xAC, 0xDB, 0x35]])) =
      some ([[0x00, 0x00, 0x00]], 2, some (.hasRaw [0xAC, 0xDB, 0x35])) ∧
    seen (fun t => t.dsQueries) (exec .execute (asking 2 196 22 [true] [.blob [0xAC, 0xDB, 0x35]])) =
      some [⟨.validate, 2, 196, 22⟩, ⟨.getValues, 2, 196, 22⟩] := by decide

/-- F4, F6: the count is tested first; a false `validate` ends the command before `get_values`. -/
theorem test_execute_exceptions :
    seen (fun t => (records t, t.err, t.dsQueries.length)) (exec .execute (asking 1 0 2001 [false] [.other])) =
      some ([[0x03, 0x00, 0x00]], 0, 0) ∧
    seen (fun t => (records t, t.err, t.dsQueries.length)) (exec .execute (asking 2 256 8 [false] [.other])) =
      some ([[0x02, 0x00, 0x00]], 0, 1) := by decide

/-- D1: `RS_CTL` and its tag. -/
theorem test_rdReg_rsCtl : seen records (exec (.rdReg 3) hasAll) = some [[0x00, 0x00, 0x02, 0x01, 0x0F]] := by decide

/-- F: right after reset, and the first reserved number. -/
theorem test_rdReg_reset :
    seen records (exec (.rdReg 0x08) State.reset) = some [[0x00, 0x00, 0x02, 0x01, 0x00]] ∧
    seen records (exec (.rdReg 0x09) State.reset) = some [[0x00, 0x00, 0x02, 0x07, 0xD0]] ∧
    seen records (exec (.rdReg 0x0C) State.reset) = some [[0x87, 0x00, 0x00]] := by decide

/-- G: an illegal opcode halts the block and is not consumed. -/
theorem test_illegal_step :
    seen (fun t => (records t, t.pc, t.halted, t.err, t.cmd)) (step (hostWrite [0x00, 0x21] { start with pc := 1, err := 0x20 })) =
      some ([[0x88, 0x00, 0x00]], 1, true, 0xA0, [0x00, 0x21]) := by decide

/-! ### Witnesses: for each statement with hypotheses, states and operands that meet them, at the edges of each clause -/

/-- A command's next state with this record appended. -/
def endsIn (i : Instr) (s : State) (st : Status) : Prop := ∃ t, exec i s = .next t ∧ Emitted s t st

theorem cfg_wf : cfg.wf := by decide
theorem err_clear : false = (0 : Byte).getLsbD 7 := by decide

/-- E4: one byte over the capacity. -/
theorem over_capacity : exec (.rsSetRaw (List.replicate 257 0)) hasAll = .next (takeFault .capacity hasAll) := by
  have h : rawFits hasAll (List.replicate 257 (0 : Byte)).length = false := by rw [List.length_replicate]; decide
  show complete hasAll (if rawFits hasAll (List.replicate 257 (0 : Byte)).length = true then _ else _) = _
  rw [h]
  rfl

theorem start_inv : start.Inv where
  capacity := cfg_wf
  noResponse := fun _ => ⟨rfl, rfl, rfl⟩
  countCached := fun _ h => nomatch h
  viewsAgree := fun _ _ h => nomatch h
  bitsFit := fun _ h => nomatch h
  rawFits := fun _ h => nomatch h
  requestTag := fun h => nomatch h
  responseTag := fun h => nomatch h
  haltedBit := err_clear
  records := fun _ h => nomatch h

theorem hasBits_inv (b : List Bool) (h : b.length ≤ 2048) : (hasBits b).Inv where
  capacity := cfg_wf
  noResponse := fun h => nomatch h
  countCached := fun _ h => nomatch h
  viewsAgree := fun _ _ _ h => nomatch h
  bitsFit := by rintro _ ⟨⟩; exact h
  rawFits := fun _ h => nomatch h
  requestTag := fun h => nomatch h
  responseTag := fun _ => .inl rfl
  haltedBit := err_clear
  records := fun _ h => nomatch h

theorem hasRaw_inv (r : List Byte) (h : r.length ≤ 256) : (hasRaw r).Inv where
  capacity := cfg_wf
  noResponse := fun h => nomatch h
  countCached := fun _ h => nomatch h
  viewsAgree := fun _ _ h => nomatch h
  bitsFit := fun _ h => nomatch h
  rawFits := by rintro _ ⟨⟩; exact h
  requestTag := fun h => nomatch h
  responseTag := fun _ => .inl rfl
  haltedBit := err_clear
  records := fun _ h => nomatch h

theorem hasAll_inv : hasAll.Inv where
  capacity := cfg_wf
  noResponse := fun h => nomatch h
  countCached := by rintro _ ⟨⟩; exact ⟨[5], rfl, rfl⟩
  viewsAgree := by rintro _ _ ⟨⟩ ⟨⟩; decide
  bitsFit := by rintro _ ⟨⟩; decide
  rawFits := by rintro _ ⟨⟩; decide
  requestTag := fun h => nomatch h
  responseTag := fun _ => .inl rfl
  haltedBit := err_clear
  records := fun _ h => nomatch h

theorem asking_inv (c : Half) (ok : List Bool) (v : List Values) : (asking 2 0 c ok v).Inv where
  capacity := cfg_wf
  noResponse := fun _ => ⟨rfl, rfl, rfl⟩
  countCached := fun _ h => nomatch h
  viewsAgree := fun _ _ h => nomatch h
  bitsFit := fun _ h => nomatch h
  rawFits := fun _ h => nomatch h
  requestTag := fun _ => .inr rfl
  responseTag := fun h => nomatch h
  haltedBit := err_clear
  records := fun _ h => nomatch h

theorem witness_EncodedCommandDecodesToItself : Instr.wellFormed (.rsNew 2 255 (List.replicate 65535 0xFF)) = true := by
  rw [Instr.wellFormed, payloadFits, List.length_replicate]; rfl

theorem witness_DecodedBytesAreTheEncoding : decode [0x38, 0xFF, 0xFF, 0x99] = .command (.rsRstBit 0xFFFF) [0x99] := by decide

/-- One byte short, and not short. -/
theorem witness_IncompleteExactlyWhenBytesAreMissing :
    decode [0x10, 0x00, 0x02, 0x01] = .incomplete ∧ commandLength [0x10, 0x00, 0x02, 0x01] = some 5 ∧
    decode [0x10, 0x00, 0x02, 0x01, 0x00] = .command (.pack [1, 0]) [] := by decide

theorem witness_IllegalOpcodeHaltsTheBlock :
    (hostWrite [0x51] start).halted = false ∧ decode (hostWrite [0x51] start).cmd = .illegal 0x51 ∧
    seen State.halted (step (hostWrite [0x51] start)) = some true := by decide

theorem witness_AssemblyLineNamesOneCommand : opcodeMnemonic .rsRstBit = opcodeMnemonic .rsRstBit := rfl

theorem witness_StepRunsTheDecodedCommand :
    (hostWrite [0x40] start).halted = false ∧ decode (hostWrite [0x40] start).cmd = .command .execute [] := by decide

theorem witness_StepRunsTheEncodedCommand :
    start.halted = false ∧ Instr.wellFormed (.rqDec [1, 2]) = true ∧
    (hostWrite [0x22, 0, 2, 1, 2, 0x21] start).cmd = encode (.rqDec [1, 2]) ++ [0x21] := by decide

/-- One state for each of the three stuck states. -/
theorem witness_BlockHoldsWithoutAWholeCommand :
    ({ start with halted := true } : State).halted = true ∧
    (start.halted = false ∧ start.cmd = []) ∧
    ((hostWrite [0x50] start).halted = false ∧ (hostWrite [0x50] start).cmd ≠ [] ∧
      decode (hostWrite [0x50] start).cmd = .incomplete) := by decide

/-- A run that is finished after one step, and one that is not. -/
theorem witness_PcCountsConsumedBytes :
    (∃ t, step (hostWrite [0x21] start) = .next t ∧ t.cmd = []) ∧ (hostWrite [0x21] start).pc + [(0x21 : Byte)].length = 1 ∧
    ∃ t, step (hostWrite [0x21, 0x10] start) = .next t ∧ t.cmd = [0x10] :=
  ⟨⟨_, rfl, rfl⟩, rfl, _, rfl, rfl⟩

theorem witness_LaterBytesDoNotChangeAStep : ∃ t, step (hostWrite [0x50, 0x07] start) = .next t := ⟨_, rfl⟩

theorem witness_ResetLeavesTheResetValues :
    (∃ s, hostReset hasAll = hostReset s) ∧ ∃ c, State.reset = State.resetWith c := ⟨⟨_, rfl⟩, _, rfl⟩

/-- A record of each class. -/
theorem witness_EveryCommandEmitsOneRecord :
    endsIn .rqEnc (asking 1 0 0 [] []) .ok ∧ endsIn .execute (asking 1 0 0 [] []) (.exc .illegalValue) ∧
    endsIn .rqEnc start (.fault .noInst) :=
  ⟨⟨_, rfl, _, rfl⟩, ⟨_, rfl, _, rfl⟩, ⟨_, rfl, _, rfl⟩⟩

/-- A fault that is not `ILLCMD`, and `ILLCMD`. -/
theorem witness_FaultsArePrecise :
    (∃ t, step (hostWrite [0x21] start) = .next t ∧ Emitted (hostWrite [0x21] start) t (.fault .noInst)) ∧
    ∃ t, step (hostWrite [0xFF] start) = .next t ∧ Emitted (hostWrite [0xFF] start) t (.fault .illCmd) :=
  ⟨⟨_, rfl, _, rfl⟩, _, rfl, _, rfl⟩

/-- A bit set by the step, and a bit that was set before. -/
theorem witness_ErrBitsAreSticky :
    seen (fun t => (t.err.getLsbD 7, t.err.getLsbD 5, t.err.getLsbD 0))
      (step (hostWrite [0xFF] { start with err := 0x20 })) = some (true, true, false) := by decide

theorem witness_InstancesPersist :
    (∃ t, exec (.rqDec [1, 2, 3, 4]) (asking 1 0 0 [] []) = .next t) ∧ (asking 1 0 0 [] []).rqV = true ∧
    hasAll.rsV = true ∧ ∀ fc a c, Instr.rqDec [1, 2, 3, 4] ≠ .rqNew fc a c :=
  ⟨⟨_, rfl⟩, rfl, rfl, by simp⟩

theorem witness_CommandsStayInTheirFamily :
    (∃ t, exec (.rdReg 0) start = .next t) ∧ Instr.rdReg 0 ≠ .execute ∧
    (Instr.rdReg 0).opcode ∈ [Opcode.pack, .unpack, .rqNew, .rqEnc, .rqDec, .rdReg] ∧
    (∀ fc a c, Instr.rdReg 0 ≠ .rqNew fc a c) ∧ ∀ d, Instr.rdReg 0 ≠ .rqDec d :=
  ⟨⟨_, rfl⟩, by simp, by decide, by simp, by simp⟩

theorem witness_ElementBytesAreBits : (0x01 : Byte) ∈ elementsOfBits [false, true] ∧ 0x80 ≤ (Status.fault .illCmd).code.toNat := by
  decide

/-- Each of the three causes, in a state with an instance and in one without. -/
theorem witness_OperandFaultsComeBeforeStateFaults :
    endsIn (.rsClr 3) start (.fault .illOperand) ∧ endsIn (.rsNew 1 2 []) start (.fault .construction) ∧
    endsIn (.rsSetRaw (List.replicate 257 0)) hasAll (.fault .capacity) ∧ start.cfg = hasAll.cfg :=
  ⟨⟨_, rfl, _, rfl⟩, ⟨_, rfl, _, rfl⟩, ⟨_, over_capacity, _, rfl⟩, rfl⟩

/-- The last bit of the last byte. -/
theorem witness_PackPlacesEachBit : 1 < (pack (List.replicate 9 true)).length ∧ (7 : Nat) < 8 := by decide

theorem witness_UnpackReadsEachBit : (15 : Nat) < 8 * ([0x01, 0x80] : List Byte).length := by decide

theorem witness_PackUnpackLaws :
    [true].length % 8 ≠ 0 ∧ ([true, false].length = [true, false].length ∧ pack [true, false] = pack [true, false]) ∧
    unpack [7] = unpack [7] ∧ (List.replicate 8 true).length % 8 = 0 ∧ 0 < [true].length := by decide

/-- B40, B41: the greatest accepted length and the next. -/
theorem witness_PackCommandReturnsThePackedBytes :
    (List.replicate 2048 (1 : Byte)).length ≤ 8 * start.cfg.capBytes ∧
    8 * start.cfg.capBytes < (List.replicate 2049 (1 : Byte)).length := by
  rw [List.length_replicate, List.length_replicate]; decide

/-- B48, B49. -/
theorem witness_UnpackCommandReturnsEightBitsPerByte :
    (List.replicate 256 (0xAA : Byte)).length ≤ start.cfg.capBytes ∧
    start.cfg.capBytes < (List.replicate 257 (0xAA : Byte)).length := by
  rw [List.length_replicate, List.length_replicate]; decide

/-- Both legal tags, and the reserved ones beside them. -/
theorem witness_RqNewMakesTheRequest :
    ((1 : Byte) = 1 ∨ (1 : Byte) = 2) ∧ ((2 : Byte) = 1 ∨ (2 : Byte) = 2) ∧
    ((0 : Byte) ≠ 1 ∧ (0 : Byte) ≠ 2) ∧ ((3 : Byte) ≠ 1 ∧ (3 : Byte) ≠ 2) := by decide

theorem witness_RqEncReturnsTheBody : (asking 1 0xFFFF 0xFFFF [] []).rqV = true ∧ start.rqV = false := by decide

/-- Three bytes, four bytes, five bytes; and no instance. -/
theorem witness_RqDecTakesExactlyFourBytes :
    start.rqV = false ∧ (asking 1 0 0 [] []).rqV = true ∧ ([1, 2, 3] : List Byte).length ≠ 4 ∧
    ([1, 2, 3, 4, 5] : List Byte).length ≠ 4 ∧ ∃ a b c d : Byte, ([1, 2, 3, 4] : List Byte) = [a, b, c, d] :=
  ⟨rfl, rfl, by decide, by decide, 1, 2, 3, 4, rfl⟩

theorem witness_RequestRoundTrip :
    ((2 : Byte) = 1 ∨ (2 : Byte) = 2) ∧ (asking 2 0 0 [] []).rqV = true ∧ ([0xFF, 0xFF, 0, 0] : List Byte).length = 4 := by decide

/-- A state for each clause: bits held, raw held, neither, the count held, the count not held. -/
theorem witness_HelpersMaterialiseTheViews :
    (hasBits [true]).bits = some [true] ∧ ((hasRaw [5]).bits = none ∧ (hasRaw [5]).raw = some [5]) ∧
    (start.bits = none ∧ start.raw = none) ∧ ((hasBits [true]).raw = none ∧ (hasBits [true]).bits = some [true]) ∧
    hasAll.bc = some 1 ∧ (hasRaw [5]).bc = none ∧ start.rsV = false ∧ hasAll.rsV = true := by decide

/-- The fullest raw view. -/
theorem witness_MaterialisedViewsFitTheBuffers : (hasRaw (List.replicate 256 0x11)).Inv :=
  hasRaw_inv _ (by rw [List.length_replicate])

theorem witness_RsClrMakesAnUnsetResponse :
    ((2 : Byte) = 1 ∨ (2 : Byte) = 2) ∧ ((3 : Byte) ≠ 1 ∧ (3 : Byte) ≠ 2) ∧ ∃ t, exec (.rsClr 2) hasAll = .next t :=
  ⟨by decide, by decide, _, rfl⟩

/-- A reserved tag; a kind that is neither; each kind one over its limit and at its limit. -/
theorem witness_RsNewConstructsFromValues :
    ((0 : Byte) ≠ 1 ∧ (0 : Byte) ≠ 2) ∧ ((1 : Byte) = 1 ∨ (1 : Byte) = 2) ∧ ((2 : Byte) ≠ 0 ∧ (2 : Byte) ≠ 1) ∧
    8 * start.cfg.capBytes < (List.replicate 2049 (1 : Byte)).length ∧
    start.cfg.capBytes < (List.replicate 257 (1 : Byte)).length ∧
    (List.replicate 2048 (1 : Byte)).length ≤ 8 * start.cfg.capBytes ∧
    (List.replicate 256 (1 : Byte)).length ≤ start.cfg.capBytes := by
  rw [List.length_replicate, List.length_replicate, List.length_replicate, List.length_replicate]; decide

/-- For every command whose only test is the instance: a state without and a state with one, which meets the invariant. -/
theorem witness_RsGetBitsReturnsTheBitsView : start.rsV = false ∧ hasAll.rsV = true := by decide
theorem witness_RsGetRawReturnsTheRawView : start.rsV = false ∧ (hasBits [true]).rsV = true := by decide
theorem witness_RsGetBcReturnsTheByteCount : start.rsV = false ∧ hasAll.rsV = true ∧ hasAll.Inv := ⟨rfl, rfl, hasAll_inv⟩

/-- The last index and the first beyond it. -/
theorem witness_RsGetBitReadsOneBit :
    start.rsV = false ∧ hasAll.rsV = true ∧ (2 : Half).toNat < (bitsView hasAll).length ∧
    (bitsView hasAll).length ≤ (3 : Half).toNat := by decide

theorem witness_RsSetBitsReplacesTheBits :
    8 * hasAll.cfg.capBytes < (List.replicate 2049 (1 : Byte)).length ∧
    (List.replicate 2048 (1 : Byte)).length ≤ 8 * hasAll.cfg.capBytes ∧ start.rsV = false ∧ hasAll.rsV = true := by
  rw [List.length_replicate, List.length_replicate]; decide

theorem witness_RsSetRawReplacesTheRaw :
    hasAll.cfg.capBytes < (List.replicate 257 (1 : Byte)).length ∧
    (List.replicate 256 (1 : Byte)).length ≤ hasAll.cfg.capBytes ∧ start.rsV = false ∧ hasAll.rsV = true := by
  rw [List.length_replicate, List.length_replicate]; decide

theorem witness_RsSetBitWritesOneBit :
    start.rsV = false ∧ (hasRaw [5]).rsV = true ∧ (7 : Half).toNat < (bitsView (hasRaw [5])).length ∧
    (bitsView (hasRaw [5])).length ≤ (8 : Half).toNat := by decide

theorem witness_RsRstBitIsSetBitOfZero : hasAll.rsV = true ∧ (2 : Half).toNat < (bitsView hasAll).length := by decide

/-- D12: 255 bytes and 256 bytes. -/
theorem witness_RsEncEmitsCountThenRaw :
    start.rsV = false ∧
    ((hasRaw (List.replicate 255 0x11)).Inv ∧ (rawView (hasRaw (List.replicate 255 0x11))).length ≤ 255) ∧
    ((hasRaw (List.replicate 256 0x11)).Inv ∧ 255 < (rawView (hasRaw (List.replicate 256 0x11))).length) := by
  refine ⟨rfl, ⟨hasRaw_inv _ ?_, ?_⟩, hasRaw_inv _ ?_, ?_⟩ <;> simp only [hasRaw, rawView, List.length_replicate] <;> decide

/-- E5, E6: one over the limit and at the limit; no payload; one byte. -/
theorem witness_RsDecTakesAllAfterTheFirstByte :
    1 + hasAll.cfg.capBytes < (List.replicate 258 (1 : Byte)).length ∧
    (List.replicate 257 (1 : Byte)).length ≤ 1 + hasAll.cfg.capBytes ∧ start.rsV = false ∧ hasAll.rsV = true ∧
    ∃ declared rest, ([7] : List Byte) = declared :: rest := by
  rw [List.length_replicate, List.length_replicate]; exact ⟨by decide, by decide, rfl, rfl, 7, [], rfl⟩

/-- Every command named ends with status `OK` in some state. -/
theorem witness_MutatorsLeaveOneAuthoritativeView :
    endsIn (.rsClr 1) hasAll .ok ∧ endsIn (.rsNew 1 0 [1]) hasAll .ok ∧ endsIn (.rsNew 2 1 [1]) hasAll .ok ∧
    endsIn (.rsSetBits [1]) hasAll .ok ∧ endsIn (.rsSetRaw [1]) hasAll .ok ∧ endsIn (.rsSetBit 2 1) hasAll .ok ∧
    endsIn (.rsRstBit 0) hasAll .ok ∧ endsIn (.rsDec [1]) hasAll .ok :=
  ⟨⟨_, rfl, _, rfl⟩, ⟨_, rfl, _, rfl⟩, ⟨_, rfl, _, rfl⟩, ⟨_, rfl, _, rfl⟩, ⟨_, rfl, _, rfl⟩, ⟨_, rfl, _, rfl⟩,
   ⟨_, rfl, _, rfl⟩, ⟨_, rfl, _, rfl⟩⟩

/-- `EXEC` ends with status `OK` on each kind of answer. -/
theorem witness_InvalidationList :
    (endsIn .execute (asking 1 0 1 [true] [.seq [1]]) .ok ∧
      ∃ e, valuesAnswer (askValidate (asking 1 0 1 [true] [.seq [1]])) = .seq e) ∧
    (endsIn .execute (asking 1 0 2000 [true] [.blob [1]]) .ok ∧
      ∃ r, valuesAnswer (askValidate (asking 1 0 2000 [true] [.blob [1]])) = .blob r) ∧
    (endsIn .rsEnc hasAll .ok ∧ hasAll.bits = some [true, false, true] ∧ hasAll.raw = some [5] ∧ hasAll.bc = some 1) ∧
    endsIn (.rsGetBit 3) hasAll (.fault .index) :=
  ⟨⟨⟨_, rfl, _, rfl⟩, _, rfl⟩, ⟨⟨_, rfl, _, rfl⟩, _, rfl⟩, ⟨⟨_, rfl, _, rfl⟩, rfl, rfl, rfl⟩, ⟨_, rfl, _, rfl⟩⟩

theorem witness_FlagTable :
    endsIn .rsGetBits hasAll .ok ∧ endsIn .rsGetRaw hasAll .ok ∧ (endsIn .rsGetBc hasAll .ok ∧ hasAll.Inv) ∧
    endsIn (.rdReg 3) hasAll .ok ∧ endsIn .execute (asking 1 0 2001 [] []) (.exc .illegalValue) :=
  ⟨⟨_, rfl, _, rfl⟩, ⟨_, rfl, _, rfl⟩, ⟨⟨_, rfl, _, rfl⟩, hasAll_inv⟩, ⟨_, rfl, _, rfl⟩, ⟨_, rfl, _, rfl⟩⟩

theorem witness_BothViewsShowTheSameBit :
    hasAll.Inv ∧ hasAll.bits = some [true, false, true] ∧ hasAll.raw = some [5] ∧ 2 < [true, false, true].length :=
  ⟨hasAll_inv, rfl, rfl, by decide⟩

/-- An accessor that returns, and one that faults both times. -/
theorem witness_AccessorsAreIdempotent :
    (∃ t u, exec (.rsGetBit 2) (hasRaw [5]) = .next t ∧ exec (.rsGetBit 2) t = .next u) ∧
    ∃ t u, exec (.rsGetBit 8) (hasRaw [5]) = .next t ∧ exec (.rsGetBit 8) t = .next u :=
  ⟨⟨_, _, rfl, rfl⟩, _, _, rfl, rfl⟩

theorem witness_ConstructionLeavesNothingOfTheOldInstance :
    hasAll.cfg = start.cfg ∧ endsIn (.rqNew 1 0 0) start .ok ∧ endsIn (.rsNew 1 1 [7]) start .ok ∧
    (∃ t, exec (.rsNew 1 1 [7]) hasAll = .next t) ∧
    (endsIn .execute (asking 1 0 1 [true] [.seq [1]]) .ok ∧
      SameRequest (asking 1 0 1 [true] [.seq [1]]) { asking 1 0 1 [true] [.seq [1]] with rsV := true, rsFc := 2, raw := some [9] } ∧
      validateAnswer { asking 1 0 1 [true] [.seq [1]] with rsV := true, rsFc := 2, raw := some [9] } = true) :=
  ⟨rfl, ⟨_, rfl, _, rfl⟩, ⟨_, rfl, _, rfl⟩, ⟨_, rfl⟩, ⟨_, rfl, _, rfl⟩, ⟨rfl, rfl, rfl, rfl⟩, rfl⟩

/-- A count that fits `RS.ENC` and one that does not. -/
theorem witness_ByteCountIsTheLengthOfTheRawView :
    (hasAll.Inv ∧ hasAll.rsV = true) ∧ (hasRaw (List.replicate 256 0x11)).Inv ∧ ([5] : List Byte).length ≤ 255 :=
  ⟨⟨hasAll_inv, rfl⟩, hasRaw_inv _ (by rw [List.length_replicate]), by decide⟩

theorem witness_SetBitThenGetBit :
    endsIn (.rsSetBit 1 0xFF) (hasRaw [5]) .ok ∧ (7 : Half) ≠ 1 ∧ (7 : Half).toNat < (bitsView (hasRaw [5])).length :=
  ⟨⟨_, rfl, _, rfl⟩, by decide, by decide⟩

theorem witness_EncodeThenDecodeResponse :
    (hasBits [true, false, true]).Inv ∧ (hasBits [true, false, true]).rsV = true ∧
    (rawView (hasBits [true, false, true])).length ≤ 255 ∧ (hasRaw [9]).Inv ∧ (hasRaw [9]).rsV = true ∧
    (hasBits [true, false, true]).bits = some [true, false, true] :=
  ⟨hasBits_inv _ (by decide), rfl, by decide, hasRaw_inv _ (by decide), rfl, rfl⟩

/-- Each clause: no instance; counts 0 and 2001; counts 1 and 2000 with each answer of `validate` and of `get_values`, within
and beyond the capacity. -/
theorem witness_ExecRunsTheThreeSteps :
    start.rqV = false ∧ (asking 1 0 0 [] []).rqCount.toNat < 1 ∧ 2000 < (asking 1 0 2001 [] []).rqCount.toNat ∧
    (1 ≤ (asking 1 0 1 [false] []).rqCount.toNat ∧ validateAnswer (asking 1 0 1 [false] []) = false) ∧
    ((asking 1 0 2000 [true] [.other]).rqCount.toNat ≤ 2000 ∧ validateAnswer (asking 1 0 2000 [true] [.other]) = true ∧
      valuesAnswer (askValidate (asking 1 0 2000 [true] [.other])) = .other) ∧
    (valuesAnswer (askValidate (asking 1 0 1 [true] [.seq (List.replicate 2048 1)])) = .seq (List.replicate 2048 1) ∧
      valuesAnswer (askValidate (asking 1 0 1 [true] [.blob (List.replicate 257 1)])) = .blob (List.replicate 257 1)) ∧
    ((List.replicate 2048 (1 : Byte)).length ≤ 8 * start.cfg.capBytes ∧
      8 * start.cfg.capBytes < (List.replicate 2049 (1 : Byte)).length) ∧
    ((List.replicate 256 (1 : Byte)).length ≤ start.cfg.capBytes ∧
      start.cfg.capBytes < (List.replicate 257 (1 : Byte)).length) := by
  refine ⟨rfl, by decide, by decide, ⟨by decide, rfl⟩, ⟨by decide, rfl, rfl⟩, ⟨rfl, rfl⟩, ?_, ?_⟩ <;>
    rw [List.length_replicate, List.length_replicate] <;> decide

/-- Both ends of the count range, with each kind of answer. -/
theorem witness_ExecFetchIsRsNew :
    (asking 2 0 1 [true] [.seq [1]]).Inv ∧ (asking 2 0 1 [true] [.seq [1]]).rqV = true ∧
    1 ≤ (asking 2 0 1 [true] [.seq [1]]).rqCount.toNat ∧ (asking 2 0 2000 [true] [.blob [1]]).rqCount.toNat ≤ 2000 ∧
    validateAnswer (asking 2 0 1 [true] [.seq [1]]) = true ∧
    valuesAnswer (askValidate (asking 2 0 1 [true] [.seq [1]])) = .seq [1] ∧
    valuesAnswer (askValidate (asking 2 0 2000 [true] [.blob [1]])) = .blob [1] ∧
    valuesAnswer (askValidate (asking 2 0 2000 [true] [.other])) = .other ∧ (2 : Byte) ≠ 0 ∧ (2 : Byte) ≠ 1 :=
  ⟨asking_inv _ _ _, rfl, by decide, by decide, rfl, rfl, rfl, rfl, by decide, by decide⟩

/-- Counts 0 and 2001, just made and already in the register; a count in range and a false `validate`. -/
theorem witness_ExecExceptionOutcomes :
    (∃ t, exec (.rqNew 1 9 2001) start = .next t) ∧ (∃ t, exec (.rqNew 2 9 0) start = .next t) ∧
    (asking 1 0 0 [] []).rqCount.toNat < 1 ∧
    ((asking 1 0 2000 [false] []).rqV = true ∧ 1 ≤ (asking 1 0 2000 [false] []).rqCount.toNat ∧
      (asking 1 0 2000 [false] []).rqCount.toNat ≤ 2000 ∧ validateAnswer (asking 1 0 2000 [false] []) = false) ∧
    2000 < (asking 1 0 2001 [] []).rqCount.toNat :=
  ⟨⟨_, rfl⟩, ⟨_, rfl⟩, by decide, ⟨rfl, by decide, by decide, rfl⟩, by decide⟩

/-- The last register and the first reserved number. -/
theorem witness_RdRegReadsTheRegisterMap : 0x0B < (0x0C : Byte).toNat ∧ (0x0B : Byte).toNat ≤ 0x0B := by decide

/-- Both ends of the range of R6. -/
theorem witness_ResetMeetsTheInvariants : (⟨255, 0, 0⟩ : Config).wf ∧ (⟨8191, 0, 0⟩ : Config).wf := by decide

/-- A step from a state that meets the invariants, and an illegal opcode's. -/
theorem witness_EveryStepKeepsTheInvariants :
    start.Inv ∧ hasAll.Inv ∧ (∃ t, step (hostWrite [0x3A] hasAll) = .next t) ∧ ∃ t, step (hostWrite [0x00] start) = .next t :=
  ⟨start_inv, hasAll_inv, ⟨_, rfl⟩, _, rfl⟩

/-- Two states with one content: the raw view alone, and both views. -/
theorem witness_CachingIsInvisible :
    (hasRaw [5]).Inv ∧ (holdBits (hasRaw [5])).Inv ∧ SameContent (hasRaw [5]) (holdBits (hasRaw [5])) ∧
    (∀ reg : Byte, Instr.rdReg 7 = .rdReg reg → reg.toNat < 3 ∨ 6 < reg.toNat) ∧
    ∃ t, exec (.rdReg 7) (hasRaw [5]) = .next t := by
  refine ⟨hasRaw_inv _ (by decide), ?_, ?_, ?_, _, rfl⟩
  · exact {
      capacity := cfg_wf
      noResponse := fun h => nomatch h
      countCached := fun _ h => nomatch h
      viewsAgree := by rintro _ _ ⟨⟩ ⟨⟩; decide
      bitsFit := by rintro _ ⟨⟩; decide
      rawFits := by rintro _ ⟨⟩; decide
      requestTag := fun h => nomatch h
      responseTag := fun _ => .inl rfl
      haltedBit := err_clear
      records := fun _ h => nomatch h }
  · exact ⟨⟨rfl, rfl, rfl, rfl⟩, ⟨rfl, rfl⟩, rfl, rfl, rfl, ⟨rfl, rfl, rfl, rfl⟩, rfl, ⟨rfl, rfl, rfl, rfl⟩⟩
  · rintro reg ⟨⟩; decide

end Sys2Proof.Tests
end

section
/-! PROOFS. The reset values (spec/10_state.md R38): one lemma per field of the two reset states, and the registers of a
response that holds no view. -/

namespace Sys2Proof.Machine

@[simp] theorem resetWith_rqV (c : Config) : (State.resetWith c).rqV = false := rfl
@[simp] theorem resetWith_rqFc (c : Config) : (State.resetWith c).rqFc = 0 := rfl
@[simp] theorem resetWith_rqAddr (c : Config) : (State.resetWith c).rqAddr = 0 := rfl
@[simp] theorem resetWith_rqCount (c : Config) : (State.resetWith c).rqCount = 0 := rfl
@[simp] theorem resetWith_rsV (c : Config) : (State.resetWith c).rsV = false := rfl
@[simp] theorem resetWith_rsFc (c : Config) : (State.resetWith c).rsFc = 0 := rfl
@[simp] theorem resetWith_bits (c : Config) : (State.resetWith c).bits = none := rfl
@[simp] theorem resetWith_raw (c : Config) : (State.resetWith c).raw = none := rfl
@[simp] theorem resetWith_bc (c : Config) : (State.resetWith c).bc = none := rfl
@[simp] theorem resetWith_err (c : Config) : (State.resetWith c).err = 0 := rfl
@[simp] theorem resetWith_halted (c : Config) : (State.resetWith c).halted = false := rfl
@[simp] theorem resetWith_pc (c : Config) : (State.resetWith c).pc = 0 := rfl
@[simp] theorem resetWith_cmd (c : Config) : (State.resetWith c).cmd = [] := rfl
@[simp] theorem resetWith_res (c : Config) : (State.resetWith c).res = [] := rfl
@[simp] theorem resetWith_dsValidateIn (c : Config) : (State.resetWith c).dsValidateIn = [] := rfl
@[simp] theorem resetWith_dsValuesIn (c : Config) : (State.resetWith c).dsValuesIn = [] := rfl
@[simp] theorem resetWith_dsQueries (c : Config) : (State.resetWith c).dsQueries = [] := rfl
@[simp] theorem resetWith_dsTick (c : Config) : (State.resetWith c).dsTick = 0 := rfl
@[simp] theorem resetWith_cfg (c : Config) : (State.resetWith c).cfg = c := rfl

@[simp] theorem hostReset_rqV (s : State) : (hostReset s).rqV = false := rfl
@[simp] theorem hostReset_rqFc (s : State) : (hostReset s).rqFc = 0 := rfl
@[simp] theorem hostReset_rqAddr (s : State) : (hostReset s).rqAddr = 0 := rfl
@[simp] theorem hostReset_rqCount (s : State) : (hostReset s).rqCount = 0 := rfl
@[simp] theorem hostReset_rsV (s : State) : (hostReset s).rsV = false := rfl
@[simp] theorem hostReset_rsFc (s : State) : (hostReset s).rsFc = 0 := rfl
@[simp] theorem hostReset_bits (s : State) : (hostReset s).bits = none := rfl
@[simp] theorem hostReset_raw (s : State) : (hostReset s).raw = none := rfl
@[simp] theorem hostReset_bc (s : State) : (hostReset s).bc = none := rfl
@[simp] theorem hostReset_err (s : State) : (hostReset s).err = 0 := rfl
@[simp] theorem hostReset_halted (s : State) : (hostReset s).halted = false := rfl
@[simp] theorem hostReset_pc (s : State) : (hostReset s).pc = 0 := rfl
@[simp] theorem hostReset_cmd (s : State) : (hostReset s).cmd = [] := rfl
@[simp] theorem hostReset_res (s : State) : (hostReset s).res = s.res := rfl
@[simp] theorem hostReset_dsValidateIn (s : State) : (hostReset s).dsValidateIn = s.dsValidateIn := rfl
@[simp] theorem hostReset_dsValuesIn (s : State) : (hostReset s).dsValuesIn = s.dsValuesIn := rfl
@[simp] theorem hostReset_dsQueries (s : State) : (hostReset s).dsQueries = s.dsQueries := rfl
@[simp] theorem hostReset_dsTick (s : State) : (hostReset s).dsTick = s.dsTick := rfl
@[simp] theorem hostReset_cfg (s : State) : (hostReset s).cfg = s.cfg := rfl

/-- The registers of the two views and of the cached count, where none of them is held (R25, R26, R27). -/
theorem registers_of_nothing_held (s : State) (hbits : s.bits = none) (hraw : s.raw = none) (hbc : s.bc = none) :
    s.bv = false ∧ s.rv = false ∧ s.cv = false ∧ s.blen = 0 ∧ s.rlen = 0 ∧ s.bcReg = 0 := by
  simp [State.bv, State.rv, State.cv, State.blen, State.rlen, State.bcReg, hbits, hraw, hbc]

/-- Settles O12: both kinds of reset state have the reset value in every field, and what is not held reads as 0. -/
theorem resetLeavesTheResetValues : Obligations.ResetLeavesTheResetValues := by
  unfold Obligations.ResetLeavesTheResetValues
  refine ⟨?_, fun s => ⟨hostReset_res s, hostReset_cfg s⟩⟩
  rintro t (⟨s, rfl⟩ | ⟨c, rfl⟩)
  · simpa using registers_of_nothing_held (hostReset s) rfl rfl rfl
  · simpa using registers_of_nothing_held (State.resetWith c) rfl rfl rfl

end Sys2Proof.Machine
end

section
/-! PROOFS. What a step leaves in `ERR` (spec/10_state.md R30): the bits of the record it emits, added to those that were
set. -/

namespace Sys2Proof.Machine

/-- The `ERR` bits that a command ending with this status sets: a fault's own bit, none otherwise (R30, R170). -/
def Status.errBits : Status → Byte
  | .ok => 0
  | .exc _ => 0
  | .fault c => c.errBit

/-- Every fault's bit lies in the register (R30). -/
theorem errIndex_lt (c : Cause) : c.errIndex < 8 := by cases c <;> decide

/-- A fault's bit is at its index and nowhere else (R30). -/
theorem getLsbD_errBit (c : Cause) (k : Nat) : c.errBit.getLsbD k = true ↔ c.errIndex = k := by
  have := errIndex_lt c
  simp only [Cause.errBit, BitVec.getLsbD_twoPow, Bool.and_eq_true, decide_eq_true_eq]
  omega

/-- A status sets bit `k` exactly when it is the fault whose bit is `k`. -/
theorem getLsbD_errBits (st : Status) (k : Nat) :
    st.errBits.getLsbD k = true ↔ ∃ c : Cause, c.errIndex = k ∧ st = .fault c := by
  cases st with
  | ok => simp [Status.errBits]
  | exc o => simp [Status.errBits]
  | fault c => simp [Status.errBits, getLsbD_errBit]

/-- The status emitted is that of the one record that was added (R78). -/
theorem emitted_iff_of_res {s t : State} {r : Record} (h : t.res = s.res ++ [r]) (st : Status) :
    Emitted s t st ↔ r.status = st := by
  unfold Emitted
  rw [h]
  constructor
  · rintro ⟨payload, hp⟩
    obtain rfl : r = ⟨st, payload⟩ := by simpa using hp
    rfl
  · rintro rfl
    exact ⟨r.payload, rfl⟩

/-- One record `r` has been emitted between `s` and `t`, and `ERR` has gained the bits of its status and no other. -/
def RecordsInErr (s t : State) (r : Record) : Prop := t.res = s.res ++ [r] ∧ t.err = s.err ||| r.status.errBits

/-- Each way a command can end emits a record and adds its bits to `ERR`, where the body wrote neither (R170, R183). -/
theorem finish_recordsInErr (u : State) (e : CmdEnd)
    (hbody : ∀ p t, e = .ret p t → t.err = u.err ∧ t.res = u.res) : ∃ r, RecordsInErr u (finish u e) r := by
  cases e with
  | ret p t =>
    obtain ⟨herr, hres⟩ := hbody p t rfl
    exact ⟨⟨.ok, p⟩, by simp [hres], by simp [herr, Status.errBits]⟩
  | exc o => exact ⟨⟨.exc o, []⟩, rfl, by simp [Status.errBits]⟩
  | raise c => exact ⟨⟨.fault c, []⟩, rfl, rfl⟩

/-- Every command emits one record, whose bits are what `ERR` gains. -/
theorem exec_recordsInErr {i : Instr} {s t : State} (h : exec i s = .next t) : ∃ r, RecordsInErr s t r := by
  obtain ⟨u, e, hexec, hu, -, -, hbody⟩ := exec_ends i s
  obtain rfl : t = finish u e := (complete_next u t e).mp (hexec ▸ h)
  obtain ⟨r, hr⟩ := finish_recordsInErr u e fun p t he => ⟨(hbody p t he).err, (hbody p t he).res⟩
  have hstart : u.res = s.res ∧ u.err = s.err := by
    rcases hu with rfl | ⟨-, rfl | rfl⟩ <;> simp
  exact ⟨r, by rwa [RecordsInErr, hstart.1, hstart.2] at hr⟩

/-- Every step emits one record, whose bits are what `ERR` gains. -/
theorem step_recordsInErr {s t : State} (h : step s = .next t) : ∃ r, RecordsInErr s t r := by
  obtain ⟨-, ⟨i, rest, -, hexec⟩ | ⟨-, rfl⟩⟩ := step_cases s t h
  · obtain ⟨r, hr⟩ := exec_recordsInErr hexec
    exact ⟨r, by simpa [RecordsInErr] using hr⟩
  · exact ⟨⟨.fault .illCmd, []⟩, rfl, rfl⟩

/-- Settles O15: a step's record adds exactly its status's bits to `ERR`; that is bit `k` when it is the fault of bit
`k`. -/
theorem errBitsAreSticky : Obligations.ErrBitsAreSticky := by
  unfold Obligations.ErrBitsAreSticky
  refine ⟨fun s t k h => ?_, rfl, hostReset_err⟩
  obtain ⟨r, hres, herr⟩ := step_recordsInErr h
  simp only [emitted_iff_of_res hres, herr, BitVec.getLsbD_or, Bool.or_eq_true, getLsbD_errBits]

end Sys2Proof.Machine
end

section
/-! PROOFS. The status codes of the records (spec/30_encoding.md R79): a fault's code follows from its `ERR` bit, and
every code of the other two classes lies below 0x80. -/

namespace Sys2Proof.Machine

/-- The codes of the faults run upward from 0x81 in the order of their `ERR` bits (R79). -/
theorem toNat_code_fault (c : Cause) : (Status.fault c).code.toNat = 0x81 + c.errIndex := by cases c <;> rfl

/-- The codes of 0x80 and above are the faults' (R79). -/
theorem le_toNat_code_iff_fault (st : Status) : 0x80 ≤ st.code.toNat ↔ ∃ c, st = .fault c := by
  cases st with
  | ok => simp [Status.code]
  | exc o => cases o <;> simp [Status.code]
  | fault c => simp only [toNat_code_fault, Status.fault.injEq, exists_eq', iff_true]; omega

/-- The table of R79 has a row for every status. -/
theorem code_mem_table (st : Status) :
    st.code ∈ ([0x00, 0x02, 0x03, 0x81, 0x82, 0x83, 0x84, 0x85, 0x86, 0x87, 0x88] : List Byte) := by
  cases st with
  | ok => decide
  | exc o => cases o <;> decide
  | fault c => cases c <;> decide

/-- Settles O18: the eleven rows hold by definition of the code; a fault's `ERR` bit comes from the order of the fault
codes. -/
theorem statusCodesAreTheTable : Obligations.StatusCodesAreTheTable := by
  unfold Obligations.StatusCodesAreTheTable
  refine ⟨rfl, rfl, rfl, rfl, rfl, rfl, rfl, rfl, rfl, rfl, rfl, code_mem_table, le_toNat_code_iff_fault,
    fun c => ?_, fun r => rfl⟩
  rw [toNat_code_fault, Nat.add_sub_cancel_left]

end Sys2Proof.Machine
end

section
/-! PROOFS. The bit codec's pure functions (spec/40_bit_codec.md R100 to R103). Packing and unpacking only move bits: bit `k`
of byte `j` is bit `8 * j + k`, and past the end both sides read as 0, so the equations below hold at every index. Each law
then compares two strings of one length bit by bit. -/

namespace Sys2Proof.Machine

/-- Bit `k` of byte `j` of the packed form, past its end too (R100). -/
theorem pack_getLsbD (b : List Bool) (j : Nat) {k : Nat} (hk : k < 8) :
    ((pack b).getD j 0).getLsbD k = b.getD (8 * j + k) false := by
  by_cases hj : j < (b.length + 7) / 8
  · rw [pack_getD b j hj, packByte_bit b j k hk]
  · rw [List.getD_eq_default (pack b) 0 (by simpa using hj), List.getD_eq_default b false (by omega)]
    exact BitVec.getLsbD_zero

/-- Bit `i` of the unpacked form, past its end too (R101). -/
theorem unpack_getD_div_mod (r : List Byte) (i : Nat) :
    (unpack r).getD i false = (r.getD (i / 8) 0).getLsbD (i % 8) := by
  by_cases hi : i < 8 * r.length
  · exact unpack_getD r i hi
  · rw [List.getD_eq_default (unpack r) false (by simpa using hi), List.getD_eq_default r 0 (by omega)]
    exact BitVec.getLsbD_zero.symm

/-- Bit `8 * j + k` of the unpacked form is bit `k` of byte `j` (R101). -/
theorem unpack_getD_mul_add (r : List Byte) (j : Nat) {k : Nat} (hk : k < 8) :
    (unpack r).getD (8 * j + k) false = (r.getD j 0).getLsbD k := by
  rw [unpack_getD_div_mod, show (8 * j + k) / 8 = j by omega, show (8 * j + k) % 8 = k by omega]

/-- Packing and unpacking keeps every bit, and past the end reads false (R102). -/
theorem unpack_pack_getD (b : List Bool) (i : Nat) : (unpack (pack b)).getD i false = b.getD i false := by
  rw [unpack_getD_div_mod, pack_getLsbD b _ (Nat.mod_lt i (by decide)), Nat.div_add_mod]

/-- Padding with false changes no bit. -/
theorem getD_append_replicate_false (b : List Bool) (p i : Nat) :
    (b ++ List.replicate p false).getD i false = b.getD i false := by
  by_cases hi : i < b.length
  · exact List.getD_append b _ false i hi
  · rw [List.getD_append_right b _ false i (by omega), List.getD_eq_default b false (by omega),
      List.getD_eq_getElem?_getD, List.getElem?_getD_replicate_default_eq]

/-- Packing what was unpacked gives the byte string back (R103 (a)). -/
theorem pack_unpack (r : List Byte) : pack (unpack r) = r := by
  refine bytes_ext _ _ (by simp; omega) fun j k _ hk => ?_
  rw [pack_getLsbD _ j hk, unpack_getD_mul_add r j hk]

/-- Unpacking what was packed pads with false to the next multiple of 8 (R102). -/
theorem unpack_pack (b : List Bool) :
    unpack (pack b) = b ++ List.replicate ((8 - b.length % 8) % 8) false := by
  refine bits_ext _ _ (by simp; omega) fun i _ => ?_
  rw [unpack_pack_getD, getD_append_replicate_false]

/-- A trailing false fills up a partial last byte (R103 (c)). -/
theorem pack_append_false (b : List Bool) (h : b.length % 8 ≠ 0) : pack b = pack (b ++ [false]) := by
  refine bytes_ext _ _ (by simp; omega) fun j k _ hk => ?_
  rw [pack_getLsbD b j hk, pack_getLsbD _ j hk]
  exact (getD_append_replicate_false b 1 _).symm

/-- Sequences of one length with one packed form are equal (R103 (c)). -/
theorem pack_injective_of_length_eq {b c : List Bool} (hl : b.length = c.length) (h : pack b = pack c) : b = c :=
  bits_ext b c hl fun i _ => by rw [← unpack_pack_getD b i, h, unpack_pack_getD]

/-- Byte strings with one unpacked form are equal (R103 (d)). -/
theorem unpack_injective : Function.Injective unpack := Function.LeftInverse.injective pack_unpack

/-- At a byte boundary the two parts pack apart from each other (R103 (e)). -/
theorem pack_append (b c : List Bool) (h : b.length % 8 = 0) : pack (b ++ c) = pack b ++ pack c := by
  refine bytes_ext _ _ (by simp; omega) fun j k _ hk => ?_
  have hlen : (pack b).length = b.length / 8 := by rw [pack_length]; omega
  rw [pack_getLsbD _ j hk]
  by_cases hj : j < b.length / 8
  · rw [List.getD_append b c false _ (by omega), List.getD_append (pack b) _ 0 j (by omega), pack_getLsbD b j hk]
  · rw [List.getD_append_right b c false _ (by omega), List.getD_append_right (pack b) _ 0 j (by omega),
      pack_getLsbD c _ hk, hlen]
    congr 1
    omega

/-- A bit that was there survives packing and unpacking (R103 (f)). -/
theorem unpack_pack_getElem? (b : List Bool) (i : Nat) (h : i < b.length) : (unpack (pack b))[i]? = b[i]? := by
  rw [unpack_pack, List.getElem?_append_left h]

/-- A number's last `n` bits are the sum of their powers of two. -/
theorem mod_two_pow_eq_sum_testBit (v n : Nat) :
    v % 2 ^ n = ((List.range n).map fun k => if v.testBit k then 2 ^ k else 0).sum := by
  induction n with
  | zero => simp [Nat.mod_one]
  | succ n ih =>
    rw [List.sum_range_succ, ← ih, Nat.mod_pow_succ, Nat.testBit_eq_decide_div_mod_eq]
    rcases Nat.mod_two_eq_zero_or_one (v / 2 ^ n) with h | h <;> simp [h]

/-- A byte is the sum of the powers of two of its bits. -/
theorem byte_toNat_eq_sum (x : Byte) :
    x.toNat = ((List.range 8).map fun k => if x.getLsbD k then 2 ^ k else 0).sum :=
  (Nat.mod_eq_of_lt x.isLt).symm.trans (mod_two_pow_eq_sum_testBit x.toNat 8)

/-- Settles O21: a packed byte is the sum of its bits' powers of two, and its bits are the sequence's, false past the
end. -/
theorem packPlacesEachBit : Obligations.PackPlacesEachBit := by
  unfold Obligations.PackPlacesEachBit
  refine fun b => ⟨pack_length b, fun j _ => ?_, fun j k _ hk => pack_getLsbD b j hk, rfl⟩
  rw [byte_toNat_eq_sum]
  congr 1
  refine List.map_congr_left fun k hk => ?_
  rw [pack_getLsbD b j (List.mem_range.mp hk)]

/-- Settles O22: the unpacked bit is the byte's bit, read as a quotient's parity. -/
theorem unpackReadsEachBit : Obligations.UnpackReadsEachBit := by
  unfold Obligations.UnpackReadsEachBit
  refine fun r => ⟨unpack_length r, fun i _ => ?_, rfl⟩
  rw [unpack_getD_div_mod, ← BitVec.testBit_toNat, Nat.testBit_eq_decide_div_mod_eq, decide_eq_true_iff]

/-- Settles O23: both sides have the length rounded up to a multiple of 8, and the same bits. -/
theorem unpackOfPackPadsWithFalse : Obligations.UnpackOfPackPadsWithFalse := by
  unfold Obligations.UnpackOfPackPadsWithFalse
  exact unpack_pack

/-- Settles O24, one lemma for each law. -/
theorem packUnpackLaws : Obligations.PackUnpackLaws := by
  unfold Obligations.PackUnpackLaws
  exact ⟨pack_unpack, pack_length, unpack_length, pack_append_false, fun _ _ => pack_injective_of_length_eq,
    fun _ _ h => unpack_injective h, pack_append, unpack_pack_getElem?⟩

end Sys2Proof.Machine
end

section
/-! PROOFS. The bit codec's commands (spec/40_bit_codec.md R104, R105): each returns its result, or takes the capacity fault
of a payload that is too long. -/

namespace Sys2Proof.Machine

/-- A fault other than `ILLCMD` sets its `ERR` bit and emits its record, and changes nothing else (R183). -/
theorem takeFault_of_ne_illCmd {c : Cause} (h : c ≠ .illCmd) (s : State) :
    takeFault c s = { s with err := s.err ||| c.errBit, res := s.res ++ [⟨.fault c, []⟩] } := by
  have hhalts : c.halts = false := by
    cases c with
    | illCmd => exact absurd rfl h
    | _ => rfl
  simp [takeFault, hhalts]

/-- What `PACK` can do: the packed bytes are returned, or the elements are more than the capacity's (R104). -/
theorem exec_pack (e : List Byte) (s : State) :
    exec (.pack e) s = .next (if e.length ≤ 8 * s.cfg.capBytes then emit ⟨.ok, pack (e.map truth)⟩ s
      else takeFault .capacity s) := by
  by_cases h : e.length ≤ 8 * s.cfg.capBytes <;>
    simp [exec, execPack, complete, bitsFit, bitsOfElements, h]

/-- What `UNPACK` can do: the bits are returned as elements, or the bytes are more than the capacity's (R105). -/
theorem exec_unpack (r : List Byte) (s : State) :
    exec (.unpack r) s = .next (if r.length ≤ s.cfg.capBytes then emit ⟨.ok, (unpack r).map elem⟩ s
      else takeFault .capacity s) := by
  by_cases h : r.length ≤ s.cfg.capBytes <;>
    simp [exec, execUnpack, complete, rawFits, elementsOfBits, h]

/-- Settles O25, with both sides of the capacity boundary from `exec_pack`. -/
theorem packCommandReturnsThePackedBytes : Obligations.PackCommandReturnsThePackedBytes := by
  unfold Obligations.PackCommandReturnsThePackedBytes
  refine fun e s => ⟨rfl, fun h => ?_, fun h => ?_⟩
  · rw [exec_pack, if_pos h]; rfl
  · rw [exec_pack, if_neg (Nat.not_le.mpr h), takeFault_of_ne_illCmd (by decide)]; rfl

/-- Settles O26, with both sides of the capacity boundary from `exec_unpack`. -/
theorem unpackCommandReturnsEightBitsPerByte : Obligations.UnpackCommandReturnsEightBitsPerByte := by
  unfold Obligations.UnpackCommandReturnsEightBitsPerByte
  refine fun r s => ⟨rfl, fun h => ⟨?_, by simp⟩, fun h => ?_⟩
  · rw [exec_unpack, if_pos h]; rfl
  · rw [exec_unpack, if_neg (Nat.not_le.mpr h), takeFault_of_ne_illCmd (by decide)]; rfl

end Sys2Proof.Machine
end

section
/-! PROOFS. The request frame (spec/41_request_frame.md): a body of four bytes and the two fields are one another's
reading, and each of the three commands has an equation for every way it can end. -/

namespace Sys2Proof.Machine

/-- The fields are read back from the body they make (R113). -/
@[simp] theorem requestFields_requestBody (address count : Half) :
    requestFields (requestBody address count) = some (address, count) := by
  simp [requestBody, be16, requestFields, half_be16]

/-- The bytes of a body are made again from the fields they hold (R113). -/
theorem requestBody_half (a b c d : Byte) : requestBody (half a b) (half c d) = [a, b, c, d] := by
  simp [requestBody, be16_half]

/-- Four bytes are the body of the two fields they hold (R81). -/
theorem eq_requestBody_of_length_eq_four {data : List Byte} (h : data.length = 4) :
    ∃ address count, data = requestBody address count := by
  obtain ⟨a, b, c, d, rfl⟩ := List.length_eq_four.mp h
  exact ⟨half a b, half c d, (requestBody_half a b c d).symm⟩

/-- What `RQ.NEW` can do: a new instance, or the fault of a reserved tag (R110). -/
theorem exec_rqNew (fc : Byte) (address count : Half) (s : State) :
    exec (.rqNew fc address count) s = .next (if fc = 1 ∨ fc = 2 then emit ⟨.ok, []⟩ (openRequest fc address count s)
      else takeFault .illOperand s) := by
  simp only [exec, execRqNew, complete, legalFc_iff]
  split <;> rfl

/-- Without an instance `RQ.ENC` faults (R111). -/
theorem exec_rqEnc_of_no_instance {s : State} (hv : s.rqV = false) : exec .rqEnc s = .next (takeFault .noInst s) := by
  simp [exec, execRqEnc, complete, needRequest, hv]

/-- With an instance `RQ.ENC` returns the body of its two fields (R111). -/
theorem exec_rqEnc_of_instance {s : State} (hv : s.rqV = true) :
    exec .rqEnc s = .next (emit ⟨.ok, requestBody s.rqAddr s.rqCount⟩ s) := by
  simp [exec, execRqEnc, complete, needRequest, hv]

/-- Without an instance `RQ.DEC` looks at no byte (R112). -/
theorem exec_rqDec_of_no_instance {s : State} (hv : s.rqV = false) (data : List Byte) :
    exec (.rqDec data) s = .next (takeFault .noInst s) := by
  simp [exec, execRqDec, complete, needRequest, hv]

/-- With an instance `RQ.DEC` refuses every length but 4 (R112). -/
theorem exec_rqDec_of_length_ne {s : State} (hv : s.rqV = true) {data : List Byte} (h : data.length ≠ 4) :
    exec (.rqDec data) s = .next (takeFault .framing s) := by
  simp [exec, execRqDec, complete, needRequest, hv, (requestFields_eq_none data).mpr h]

/-- With an instance `RQ.DEC` of a body writes the two fields of that body (R112). -/
theorem exec_rqDec_requestBody {s : State} (hv : s.rqV = true) (address count : Half) :
    exec (.rqDec (requestBody address count)) s = .next (emit ⟨.ok, []⟩ (setRequestFields address count s)) := by
  simp [exec, execRqDec, complete, needRequest, hv]

/-- Settles O30: `RQ.ENC` returns the body of the fields `RQ.NEW` or `RQ.DEC` wrote, and four bytes are such a body. -/
theorem requestRoundTrip : Obligations.RequestRoundTrip := by
  unfold Obligations.RequestRoundTrip
  constructor
  · intro fc address count s hfc
    have hnew := exec_rqNew fc address count s
    rw [if_pos hfc] at hnew
    exact ⟨_, _, _, requestBody address count, hnew, exec_rqEnc_of_instance rfl, rfl, rfl,
      exec_rqDec_requestBody rfl address count, rfl, rfl⟩
  · intro d s hv hd
    obtain ⟨address, count, rfl⟩ := eq_requestBody_of_length_eq_four hd
    exact ⟨_, _, exec_rqDec_requestBody hv address count, exec_rqEnc_of_instance hv, rfl⟩

/-- Settles O27, with both sides of the tag test from `exec_rqNew`. -/
theorem rqNewMakesTheRequest : Obligations.RqNewMakesTheRequest := by
  unfold Obligations.RqNewMakesTheRequest
  refine fun fc address count s => ⟨rfl, fun h => ?_, fun h => ?_⟩
  · rw [exec_rqNew, if_pos h]; rfl
  · rw [exec_rqNew, if_neg (not_or.mpr h), takeFault_of_ne_illCmd (by decide)]; rfl

/-- Settles O28, with and without an instance from the two equations of `RQ.ENC`. -/
theorem rqEncReturnsTheBody : Obligations.RqEncReturnsTheBody := by
  unfold Obligations.RqEncReturnsTheBody
  refine fun s => ⟨rfl, fun hv => ?_, fun hv => ?_⟩
  · rw [exec_rqEnc_of_instance hv]; rfl
  · rw [exec_rqEnc_of_no_instance hv, takeFault_of_ne_illCmd (by decide)]; rfl

/-- Settles O29, one equation of `RQ.DEC` for each clause; four bytes are read as the body of their fields. -/
theorem rqDecTakesExactlyFourBytes : Obligations.RqDecTakesExactlyFourBytes := by
  unfold Obligations.RqDecTakesExactlyFourBytes
  refine fun data s => ⟨rfl, fun hv => ?_, fun hv hlen => ?_, ?_⟩
  · rw [exec_rqDec_of_no_instance hv, takeFault_of_ne_illCmd (by decide)]; rfl
  · rw [exec_rqDec_of_length_ne hv hlen, takeFault_of_ne_illCmd (by decide)]; rfl
  · rintro hv a b c d rfl
    rw [← requestBody_half a b c d, exec_rqDec_requestBody hv]; rfl

end Sys2Proof.Machine
end

section
/-! PROOFS. The response frame's helpers (spec/42_response_frame.md R120): emitting a record changes neither view nor the
count, materialising one changes the value of none, and under the invariants the count is the raw view's length. -/

namespace Sys2Proof.Machine

@[simp] theorem bitsView_emit (r : Record) (s : State) : bitsView (emit r s) = bitsView s := rfl
@[simp] theorem rawView_emit (r : Record) (s : State) : rawView (emit r s) = rawView s := rfl
@[simp] theorem byteCount_emit (r : Record) (s : State) : byteCount (emit r s) = byteCount s := rfl
@[simp] theorem rawView_holdRaw (s : State) : rawView (holdRaw s) = rawView s := rawView_of_raw _ _ rfl

@[simp] theorem byteCount_holdRaw (s : State) : byteCount (holdRaw s) = byteCount s := by
  cases h : s.bc <;> simp [byteCount, h]

@[simp] theorem rawView_holdByteCount (s : State) : rawView (holdByteCount s) = rawView s := by
  rcases holdByteCount_cases s with ⟨n, -, -, h⟩ | ⟨-, -, h⟩
  · rw [h]
  · rw [h]; rfl

/-- A held raw view needs no materialising (R120). -/
theorem holdRaw_of_raw {s : State} {r : List Byte} (h : s.raw = some r) : holdRaw s = s := by
  rw [holdRaw, rawView_of_raw s r h, ← h]

/-- Under I2 the byte count is the length of the raw view, cached or not (R28, R120). -/
theorem byteCount_of_inv {s : State} (h : s.Inv) : byteCount s = (rawView s).length := by
  rcases holdByteCount_cases s with ⟨n, hbc, hcount, -⟩ | ⟨-, hcount, -⟩
  · obtain ⟨r, hraw, rfl⟩ := h.countCached n hbc
    rw [hcount, rawView_of_raw s r hraw]
  · exact hcount

/-- Under I2 materialising the count leaves the raw view and its length held (R28, R120). -/
theorem holdByteCount_of_inv {s : State} (h : s.Inv) :
    holdByteCount s = { s with raw := some (rawView s), bc := some (rawView s).length } := by
  rcases holdByteCount_cases s with ⟨n, hbc, hcount, hheld⟩ | ⟨-, -, hheld⟩
  · obtain ⟨r, hraw, -⟩ := h.countCached n hbc
    rw [hheld, ← byteCount_of_inv h, hcount, ← hbc, rawView_of_raw s r hraw, ← hraw]
  · exact hheld

/-- Under I3 the raw view of a response that holds bits is their packed form (R28, R120). -/
theorem rawView_of_bits {s : State} (h : s.Inv) {b : List Bool} (hb : s.bits = some b) : rawView s = pack b := by
  cases hr : s.raw with
  | none => simp [rawView, hr, hb]
  | some r => rw [rawView_of_raw s r hr, h.viewsAgree b r hb hr]

end Sys2Proof.Machine
end

section
/-! PROOFS. The response frame's commands (spec/42_response_frame.md R121 to R132): one equation per command, which lists
its tests in the order of R182 and what it leaves; each statement about a command picks a branch of its equation. -/

namespace Sys2Proof.Machine

/-- A command that needs a response runs its body, or faults without one (R120). -/
theorem complete_needResponse (s : State) (e : CmdEnd) :
    complete s (needResponse s e) = .next (if s.rsV then finish s e else takeFault .noInst s) := by
  rcases needResponse_cases s e with ⟨hv, h⟩ | ⟨hv, h⟩ <;> simp [complete, h, hv]

/-- Where a body of bits fits, it becomes a response's only view; else the capacity fault (R122). -/
theorem finish_construct_seq (fc : Byte) (e : List Byte) (s : State) :
    finish s (construct fc (.seq e) s) = if e.length ≤ 8 * s.cfg.capBytes
      then emit ⟨.ok, []⟩ (setBits (e.map truth) (openResponse fc s)) else takeFault .capacity s := by
  simp only [construct, bitsFit_iff, apply_ite (finish s), finish_ret, finish_raise, bitsOfElements]

/-- Where raw bytes fit, they become a response's only view; else the capacity fault (R122). -/
theorem finish_construct_blob (fc : Byte) (r : List Byte) (s : State) :
    finish s (construct fc (.blob r) s) = if r.length ≤ s.cfg.capBytes
      then emit ⟨.ok, []⟩ (setRaw r (openResponse fc s)) else takeFault .capacity s := by
  simp only [construct, rawFits_iff, apply_ite (finish s), finish_ret, finish_raise]

/-- Writing one bit, or the index fault (R128). -/
theorem finish_writeBit (n : Half) (v : Bool) (s : State) :
    finish s (writeBit n v s) = if n.toNat < (bitsView s).length
      then emit ⟨.ok, []⟩ (setBits ((bitsView s).set n.toNat v) s) else takeFault .index s := by
  simp only [writeBit, apply_ite (finish s), finish_ret, finish_raise]

/-- Values of an unrecognised type make no response (R122). -/
theorem finish_construct_other (fc : Byte) (s : State) :
    finish s (construct fc .other s) = takeFault .construction s := rfl

theorem valuesOfKind_zero (p : List Byte) : valuesOfKind 0 p = .seq p := rfl
theorem valuesOfKind_one (p : List Byte) : valuesOfKind 1 p = .blob p := rfl

/-- A kind byte other than 0 and 1 stands for an unrecognised type (R86). -/
theorem valuesOfKind_other {kind : Byte} (h0 : kind ≠ 0) (h1 : kind ≠ 1) (p : List Byte) :
    valuesOfKind kind p = .other := by
  rw [valuesOfKind, if_neg (by simpa using h0), if_neg (by simpa using h1)]

theorem exec_rsClr (fc : Byte) (s : State) :
    exec (.rsClr fc) s = .next (if fc = 1 ∨ fc = 2 then emit ⟨.ok, []⟩ (openResponse fc s)
      else takeFault .illOperand s) := by
  simp only [exec, execRsClr, complete, legalFc_iff, apply_ite (finish s), finish_ret, finish_raise]

theorem exec_rsNew (fc kind : Byte) (p : List Byte) (s : State) :
    exec (.rsNew fc kind p) s = .next (if fc = 1 ∨ fc = 2 then finish s (construct fc (valuesOfKind kind p) s)
      else takeFault .illOperand s) := by
  simp only [exec, execRsNew, complete, legalFc_iff, apply_ite (finish s), finish_raise]

theorem exec_rsGetBits (s : State) :
    exec .rsGetBits s = .next (if s.rsV then emit ⟨.ok, (bitsView s).map elem⟩ (holdBits s)
      else takeFault .noInst s) :=
  complete_needResponse s _

theorem exec_rsGetRaw (s : State) :
    exec .rsGetRaw s = .next (if s.rsV then emit ⟨.ok, rawView s⟩ (holdRaw s) else takeFault .noInst s) :=
  complete_needResponse s _

theorem exec_rsGetBc (s : State) :
    exec .rsGetBc s = .next (if s.rsV then emit ⟨.ok, be16 (byteCount s)⟩ (holdByteCount s)
      else takeFault .noInst s) :=
  complete_needResponse s _

theorem exec_rsSetBits (e : List Byte) (s : State) :
    exec (.rsSetBits e) s = .next (if e.length ≤ 8 * s.cfg.capBytes
      then if s.rsV then emit ⟨.ok, []⟩ (setBits (e.map truth) s) else takeFault .noInst s
      else takeFault .capacity s) := by
  simp only [exec, execRsSetBits, bitsFit_iff, apply_ite (complete s), complete_needResponse]
  split <;> rfl

theorem exec_rsSetRaw (r : List Byte) (s : State) :
    exec (.rsSetRaw r) s = .next (if r.length ≤ s.cfg.capBytes
      then if s.rsV then emit ⟨.ok, []⟩ (setRaw r s) else takeFault .noInst s
      else takeFault .capacity s) := by
  simp only [exec, execRsSetRaw, rawFits_iff, apply_ite (complete s), complete_needResponse]
  split <;> rfl

theorem exec_rsSetBit (n : Half) (v : Byte) (s : State) :
    exec (.rsSetBit n v) s = .next (if s.rsV
      then if n.toNat < (bitsView s).length
        then emit ⟨.ok, []⟩ (setBits ((bitsView s).set n.toNat (truth v)) s) else takeFault .index s
      else takeFault .noInst s) := by
  simp only [exec, execRsSetBit, complete_needResponse, finish_writeBit]

/-- The two commands run one body, as 0 is false (R80, R129). -/
theorem exec_rsRstBit (n : Half) (s : State) : exec (.rsRstBit n) s = exec (.rsSetBit n 0) s := rfl

theorem exec_rsGetBit (n : Half) (s : State) :
    exec (.rsGetBit n) s = .next (if s.rsV
      then if h : n.toNat < (bitsView s).length
        then emit ⟨.ok, [elem (bitsView s)[n.toNat]]⟩ (holdBits s) else takeFault .index s
      else takeFault .noInst s) := by
  simp only [exec, execRsGetBit, complete_needResponse]
  by_cases h : n.toNat < (bitsView s).length <;> simp [h]

theorem exec_rsEnc (s : State) :
    exec .rsEnc s = .next (if s.rsV
      then if byteCount s ≤ 255
        then emit ⟨.ok, BitVec.ofNat 8 (byteCount s) :: rawView s⟩ (holdRaw (holdByteCount s)) else takeFault .range s
      else takeFault .noInst s) := by
  simp only [exec, execRsEnc, complete_needResponse, Config.bcMax, apply_ite (finish s), finish_ret, finish_raise,
    rawView_holdByteCount]

/-- Without data `RS.DEC` finds no count byte (R132). -/
theorem exec_rsDec_nil (s : State) :
    exec (.rsDec []) s = .next (if s.rsV then takeFault .framing s else takeFault .noInst s) :=
  complete_needResponse s _

theorem exec_rsDec_cons (declared : Byte) (rest : List Byte) (s : State) :
    exec (.rsDec (declared :: rest)) s = .next (if (declared :: rest).length ≤ 1 + s.cfg.capBytes
      then if s.rsV then emit ⟨.ok, [declared]⟩ (setRaw rest s) else takeFault .noInst s
      else takeFault .capacity s) := by
  simp only [exec, execRsDec, apply_ite (complete s), complete_needResponse]
  split <;> rfl

/-- Without a response the instance test sets `ERR` bit 5 and emits its record, whatever the body (R120, R176). -/
theorem noInst_of_no_response {s : State} (hv : s.rsV = false) (t : State) :
    (if s.rsV then t else takeFault .noInst s) =
      { s with err := s.err ||| 0x20, res := s.res ++ [⟨.fault .noInst, []⟩] } := by
  rw [if_neg (ne_true_of_eq_false hv), takeFault_of_ne_illCmd (by decide)]; rfl

/-- At or beyond the end of the bits view every single-bit command takes the index fault (R128, R129, R130). -/
theorem exec_singleBit_of_length_le {s : State} (hv : s.rsV = true) {n : Half} (hn : (bitsView s).length ≤ n.toNat)
    (v : Byte) : ∀ i ∈ [Instr.rsGetBit n, .rsSetBit n v, .rsRstBit n],
      exec i s = .next { s with err := s.err ||| 0x08, res := s.res ++ [⟨.fault .index, []⟩] } := by
  have hfault : takeFault .index s = { s with err := s.err ||| 0x08, res := s.res ++ [⟨.fault .index, []⟩] } :=
    takeFault_of_ne_illCmd (by decide) s
  intro i hi
  simp only [List.mem_cons, List.not_mem_nil, or_false] at hi
  rcases hi with rfl | rfl | rfl
  · rw [exec_rsGetBit, if_pos hv, dif_neg (Nat.not_lt.mpr hn), hfault]
  · rw [exec_rsSetBit, if_pos hv, if_neg (Nat.not_lt.mpr hn), hfault]
  · rw [exec_rsRstBit, exec_rsSetBit, if_pos hv, if_neg (Nat.not_lt.mpr hn), hfault]

theorem exec_rsGetBits_of_instance {s : State} (hv : s.rsV = true) :
    exec .rsGetBits s = .next (emit ⟨.ok, (bitsView s).map elem⟩ (holdBits s)) := by
  rw [exec_rsGetBits, if_pos hv]

theorem exec_rsGetRaw_of_instance {s : State} (hv : s.rsV = true) :
    exec .rsGetRaw s = .next (emit ⟨.ok, rawView s⟩ (holdRaw s)) := by
  rw [exec_rsGetRaw, if_pos hv]

theorem exec_rsGetBc_of_instance {s : State} (hv : s.rsV = true) :
    exec .rsGetBc s = .next (emit ⟨.ok, be16 (byteCount s)⟩ (holdByteCount s)) := by
  rw [exec_rsGetBc, if_pos hv]

/-- Below the end `RS.GETBIT` returns the bit (R130). -/
theorem exec_rsGetBit_of_getElem? {s : State} (hv : s.rsV = true) {n : Half} {b : Bool}
    (hb : (bitsView s)[n.toNat]? = some b) :
    exec (.rsGetBit n) s = .next (emit ⟨.ok, [elem b]⟩ (holdBits s)) := by
  obtain ⟨hn, rfl⟩ := List.getElem?_eq_some_iff.mp hb
  rw [exec_rsGetBit, if_pos hv, dif_pos hn]

/-- Under the invariants `RS.GETBC` returns the raw view's length (R125, R28). -/
theorem exec_rsGetBc_of_inv {s : State} (hv : s.rsV = true) (h : s.Inv) :
    exec .rsGetBc s = .next (emit ⟨.ok, be16 (rawView s).length⟩
      { s with raw := some (rawView s), bc := some (rawView s).length }) := by
  rw [exec_rsGetBc_of_instance hv, byteCount_of_inv h, holdByteCount_of_inv h]

/-- Under the invariants `RS.ENC` returns up to 255 bytes after their number (R131, R28). -/
theorem exec_rsEnc_of_inv {s : State} (hv : s.rsV = true) (h : s.Inv) (hlen : (rawView s).length ≤ 255) :
    exec .rsEnc s = .next (emit ⟨.ok, BitVec.ofNat 8 (rawView s).length :: rawView s⟩
      { s with raw := some (rawView s), bc := some (rawView s).length }) := by
  rw [exec_rsEnc, if_pos hv, byteCount_of_inv h, if_pos hlen, holdByteCount_of_inv h, holdRaw_of_raw rfl]

/-- Settles O33: the fresh response has an empty view of either kind, and each reader's equation is taken there. -/
theorem rsClrMakesAnUnsetResponse : Obligations.RsClrMakesAnUnsetResponse := by
  unfold Obligations.RsClrMakesAnUnsetResponse
  refine fun fc s => ⟨rfl, fun hfc => ?_, fun hfc => ?_, fun hfc t ht => ?_⟩
  · rw [exec_rsClr, if_pos hfc]; rfl
  · rw [exec_rsClr, if_neg (not_or.mpr hfc), takeFault_of_ne_illCmd (by decide)]; rfl
  · rw [exec_rsClr, if_pos hfc] at ht
    cases ht
    have hcount : byteCount (openResponse fc s) = 0 := rfl
    refine ⟨⟨_, exec_rsGetBits_of_instance rfl, rfl⟩, ⟨_, exec_rsGetRaw_of_instance rfl, rfl⟩,
      ⟨_, exec_rsGetBc_of_instance rfl, ?_⟩, ⟨_, exec_rsEnc _, rfl⟩,
      fun n v => exec_singleBit_of_length_le rfl (Nat.zero_le _) v⟩
    rw [emit_res, holdByteCount_res, byteCount_emit, hcount]; rfl

/-- Settles O34: the tag is tested first, then the kind's values are constructed or refused. -/
theorem rsNewConstructsFromValues : Obligations.RsNewConstructsFromValues := by
  unfold Obligations.RsNewConstructsFromValues
  refine fun fc kind p s => ⟨rfl, fun hfc => ?_, fun hfc => ⟨fun hkind => ?_, ?_, ?_, ?_⟩⟩
  · rw [exec_rsNew, if_neg (not_or.mpr hfc), takeFault_of_ne_illCmd (by decide)]; rfl
  · rw [exec_rsNew, if_pos hfc, valuesOfKind_other hkind.1 hkind.2, finish_construct_other,
      takeFault_of_ne_illCmd (by decide)]; rfl
  · have hfault := takeFault_of_ne_illCmd (c := .capacity) (by decide) s
    rintro (⟨rfl, hlen⟩ | ⟨rfl, hlen⟩) <;> rw [exec_rsNew, if_pos hfc]
    · rw [valuesOfKind_zero, finish_construct_seq, if_neg (Nat.not_le.mpr hlen), hfault]; rfl
    · rw [valuesOfKind_one, finish_construct_blob, if_neg (Nat.not_le.mpr hlen), hfault]; rfl
  · rintro ⟨rfl, hlen⟩
    rw [exec_rsNew, if_pos hfc, valuesOfKind_zero, finish_construct_seq, if_pos hlen]; rfl
  · rintro ⟨rfl, hlen⟩
    rw [exec_rsNew, if_pos hfc, valuesOfKind_one, finish_construct_blob, if_pos hlen]; rfl

/-- Settles O35: both branches of the instance test are the command's equation. -/
theorem rsGetBitsReturnsTheBitsView : Obligations.RsGetBitsReturnsTheBitsView := by
  unfold Obligations.RsGetBitsReturnsTheBitsView
  refine fun s => ⟨rfl, fun hv => ?_, fun hv => ?_⟩
  · rw [exec_rsGetBits, noInst_of_no_response hv]
  · rw [exec_rsGetBits_of_instance hv]; rfl

/-- Settles O36: both branches of the instance test are the command's equation. -/
theorem rsGetRawReturnsTheRawView : Obligations.RsGetRawReturnsTheRawView := by
  unfold Obligations.RsGetRawReturnsTheRawView
  refine fun s => ⟨rfl, fun hv => ?_, fun hv => ?_⟩
  · rw [exec_rsGetRaw, noInst_of_no_response hv]
  · rw [exec_rsGetRaw_of_instance hv]; rfl

/-- Settles O37: with an instance, I2 makes the cached count the raw view's length. -/
theorem rsGetBcReturnsTheByteCount : Obligations.RsGetBcReturnsTheByteCount := by
  unfold Obligations.RsGetBcReturnsTheByteCount
  refine fun s => ⟨rfl, fun hv => ?_, fun hv h => ?_⟩
  · rw [exec_rsGetBc, noInst_of_no_response hv]
  · rw [exec_rsGetBc_of_inv hv h]; rfl

/-- Settles O38: the index fault is that of every single-bit command. -/
theorem rsGetBitReadsOneBit : Obligations.RsGetBitReadsOneBit := by
  unfold Obligations.RsGetBitReadsOneBit
  refine fun n s => ⟨rfl, fun hv => ?_, fun hv hn => ?_, fun hv hn => ?_⟩
  · rw [exec_rsGetBit, noInst_of_no_response hv]
  · exact exec_singleBit_of_length_le hv hn 0 _ (by simp)
  · rw [exec_rsGetBit_of_getElem? hv (List.getElem?_eq_getElem hn)]; rfl

/-- Settles O39: one branch of the command's equation for each clause. -/
theorem rsSetBitsReplacesTheBits : Obligations.RsSetBitsReplacesTheBits := by
  unfold Obligations.RsSetBitsReplacesTheBits
  refine fun e s => ⟨rfl, fun hlen => ?_, fun hlen hv => ?_, fun hlen hv => ?_⟩
  · rw [exec_rsSetBits, if_neg (Nat.not_le.mpr hlen), takeFault_of_ne_illCmd (by decide)]; rfl
  · rw [exec_rsSetBits, if_pos hlen, noInst_of_no_response hv]
  · rw [exec_rsSetBits, if_pos hlen, if_pos hv]; rfl

/-- Settles O40: one branch of the command's equation for each clause. -/
theorem rsSetRawReplacesTheRaw : Obligations.RsSetRawReplacesTheRaw := by
  unfold Obligations.RsSetRawReplacesTheRaw
  refine fun r s => ⟨rfl, fun hlen => ?_, fun hlen hv => ?_, fun hlen hv => ?_⟩
  · rw [exec_rsSetRaw, if_neg (Nat.not_le.mpr hlen), takeFault_of_ne_illCmd (by decide)]; rfl
  · rw [exec_rsSetRaw, if_pos hlen, noInst_of_no_response hv]
  · rw [exec_rsSetRaw, if_pos hlen, if_pos hv]; rfl

/-- Settles O41: the index fault is that of every single-bit command. -/
theorem rsSetBitWritesOneBit : Obligations.RsSetBitWritesOneBit := by
  unfold Obligations.RsSetBitWritesOneBit
  refine fun n v s => ⟨rfl, fun hv => ?_, fun hv hn => ?_, fun hv hn => ?_⟩
  · rw [exec_rsSetBit, noInst_of_no_response hv]
  · exact exec_singleBit_of_length_le hv hn v _ (by simp)
  · rw [exec_rsSetBit, if_pos hv, if_pos hn]; rfl

/-- Settles O42: the effect is that of `RS.SETBIT` with the value 0. -/
theorem rsRstBitIsSetBitOfZero : Obligations.RsRstBitIsSetBitOfZero := by
  unfold Obligations.RsRstBitIsSetBitOfZero
  refine fun n s => ⟨rfl, exec_rsRstBit n s, rfl, rfl, fun hv hn => ?_⟩
  rw [exec_rsRstBit, exec_rsSetBit, if_pos hv, if_pos hn]; rfl

/-- Settles O43: I2 makes the count that is tested and emitted the raw view's length. -/
theorem rsEncEmitsCountThenRaw : Obligations.RsEncEmitsCountThenRaw := by
  unfold Obligations.RsEncEmitsCountThenRaw
  refine fun s => ⟨rfl, fun hv => ?_, fun hv h hlen => ?_, fun hv h hlen => ?_⟩
  · rw [exec_rsEnc, noInst_of_no_response hv]
  · rw [exec_rsEnc, if_pos hv, byteCount_of_inv h, if_neg (Nat.not_le.mpr hlen), takeFault_of_ne_illCmd (by decide)]
    rfl
  · rw [exec_rsEnc_of_inv hv h hlen]; rfl

/-- Settles O44, for no data and for a first byte with its rest. -/
theorem rsDecTakesAllAfterTheFirstByte : Obligations.RsDecTakesAllAfterTheFirstByte := by
  unfold Obligations.RsDecTakesAllAfterTheFirstByte
  intro data s
  cases data with
  | nil =>
    refine ⟨rfl, fun hlen => absurd hlen (Nat.not_lt_zero _), fun _ hv => ?_, fun hv _ => ?_, by simp⟩
    · rw [exec_rsDec_nil, noInst_of_no_response hv]
    · rw [exec_rsDec_nil, if_pos hv, takeFault_of_ne_illCmd (by decide)]; rfl
  | cons declared rest =>
    refine ⟨rfl, fun hlen => ?_, fun hlen hv => ?_, by simp, ?_⟩
    · rw [exec_rsDec_cons, if_neg (Nat.not_le.mpr hlen), takeFault_of_ne_illCmd (by decide)]; rfl
    · rw [exec_rsDec_cons, if_pos hlen, noInst_of_no_response hv]
    · rintro hlen hv _ _ ⟨⟩
      rw [exec_rsDec_cons, if_pos hlen, if_pos hv]; rfl

end Sys2Proof.Machine
end

section
/-! PROOFS. The response frame's laws (spec/42_response_frame.md R133, R135 to R137). The three laws chain the commands'
equations; the invalidation list needs what a command that ends with status `OK` has left, and that the accessors only
ever add a view. -/

namespace Sys2Proof.Machine

/-- Of a test that ends in a fault, status `OK` says that it was passed (R170). -/
theorem emitted_ok_ite_takeFault {P : Prop} [Decidable P] {s t : State} {c : Cause} :
    Emitted s (if P then t else takeFault c s) .ok ↔ P ∧ Emitted s t .ok := by
  by_cases h : P
  · simp [h]
  · simp [h, emitted_iff_of_res (takeFault_res c s)]

/-- With status `OK` a construction from elements has made a response of bits (R122). -/
theorem finish_construct_seq_of_ok {fc : Byte} {e : List Byte} {s : State}
    (hok : Emitted s (finish s (construct fc (.seq e) s)) .ok) :
    finish s (construct fc (.seq e) s) = emit ⟨.ok, []⟩ (setBits (e.map truth) (openResponse fc s)) := by
  rw [finish_construct_seq] at hok ⊢
  rw [if_pos (emitted_ok_ite_takeFault.mp hok).1]

/-- With status `OK` a construction from bytes has made a response of raw bytes (R122). -/
theorem finish_construct_blob_of_ok {fc : Byte} {r : List Byte} {s : State}
    (hok : Emitted s (finish s (construct fc (.blob r) s)) .ok) :
    finish s (construct fc (.blob r) s) = emit ⟨.ok, []⟩ (setRaw r (openResponse fc s)) := by
  rw [finish_construct_blob] at hok ⊢
  rw [if_pos (emitted_ok_ite_takeFault.mp hok).1]

section OkEnds
variable {s t : State} (hok : Emitted s t .ok)
include hok

theorem rsClr_of_ok {fc : Byte} (h : exec (.rsClr fc) s = .next t) : t = emit ⟨.ok, []⟩ (openResponse fc s) := by
  rw [exec_rsClr] at h; cases h
  rw [if_pos (emitted_ok_ite_takeFault.mp hok).1]

theorem rsNew_of_ok {fc kind : Byte} {p : List Byte} (h : exec (.rsNew fc kind p) s = .next t) :
    t = finish s (construct fc (valuesOfKind kind p) s) := by
  rw [exec_rsNew] at h; cases h
  rw [if_pos (emitted_ok_ite_takeFault.mp hok).1]

theorem rsNew_bits_of_ok {fc : Byte} {e : List Byte} (h : exec (.rsNew fc 0 e) s = .next t) :
    t = emit ⟨.ok, []⟩ (setBits (e.map truth) (openResponse fc s)) := by
  obtain rfl := rsNew_of_ok hok h
  exact finish_construct_seq_of_ok hok

theorem rsNew_raw_of_ok {fc : Byte} {r : List Byte} (h : exec (.rsNew fc 1 r) s = .next t) :
    t = emit ⟨.ok, []⟩ (setRaw r (openResponse fc s)) := by
  obtain rfl := rsNew_of_ok hok h
  exact finish_construct_blob_of_ok hok

theorem rsSetBits_of_ok {e : List Byte} (h : exec (.rsSetBits e) s = .next t) :
    t = emit ⟨.ok, []⟩ (setBits (e.map truth) s) := by
  rw [exec_rsSetBits] at h; cases h
  obtain ⟨hlen, hrest⟩ := emitted_ok_ite_takeFault.mp hok
  rw [if_pos hlen, if_pos (emitted_ok_ite_takeFault.mp hrest).1]

theorem rsSetRaw_of_ok {r : List Byte} (h : exec (.rsSetRaw r) s = .next t) :
    t = emit ⟨.ok, []⟩ (setRaw r s) := by
  rw [exec_rsSetRaw] at h; cases h
  obtain ⟨hlen, hrest⟩ := emitted_ok_ite_takeFault.mp hok
  rw [if_pos hlen, if_pos (emitted_ok_ite_takeFault.mp hrest).1]

theorem rsSetBit_of_ok {n : Half} {v : Byte} (h : exec (.rsSetBit n v) s = .next t) :
    s.rsV = true ∧ n.toNat < (bitsView s).length ∧
      t = emit ⟨.ok, []⟩ (setBits ((bitsView s).set n.toNat (truth v)) s) := by
  rw [exec_rsSetBit] at h; cases h
  obtain ⟨hv, hrest⟩ := emitted_ok_ite_takeFault.mp hok
  obtain ⟨hn, -⟩ := emitted_ok_ite_takeFault.mp hrest
  exact ⟨hv, hn, by rw [if_pos hv, if_pos hn]⟩

theorem rsDec_of_ok {d : List Byte} (h : exec (.rsDec d) s = .next t) :
    ∃ declared rest, d = declared :: rest ∧ t = emit ⟨.ok, [declared]⟩ (setRaw rest s) := by
  cases d with
  | nil =>
    rw [exec_rsDec_nil] at h; cases h
    have hframing := (emitted_ok_ite_takeFault.mp hok).2
    exact absurd ((emitted_iff_of_res (takeFault_res .framing s) _).mp hframing) (by decide)
  | cons declared rest =>
    rw [exec_rsDec_cons] at h; cases h
    obtain ⟨hlen, hrest⟩ := emitted_ok_ite_takeFault.mp hok
    exact ⟨declared, rest, rfl, by rw [if_pos hlen, if_pos (emitted_ok_ite_takeFault.mp hrest).1]⟩

/-- With status `OK` `EXEC` has asked both queries and made the response from the second answer (R150). -/
theorem execute_of_ok (h : exec .execute s = .next t) :
    t = finish (askGetValues (askValidate s))
      (construct s.rqFc (valuesAnswer (askValidate s)) (askGetValues (askValidate s))) := by
  simp only [exec, execExec] at h
  split_ifs at h
  · exact (complete_next _ _ _).mp h
  all_goals
    obtain rfl := (complete_next _ _ _).mp h
    exact absurd ((emitted_iff_of_res rfl _).mp hok) (by simp)

theorem execute_seq_of_ok {e : List Byte} (h : exec .execute s = .next t)
    (he : valuesAnswer (askValidate s) = .seq e) :
    t = emit ⟨.ok, []⟩ (setBits (e.map truth) (openResponse s.rqFc (askGetValues (askValidate s)))) := by
  obtain rfl := execute_of_ok hok h
  rw [he] at hok ⊢
  exact finish_construct_seq_of_ok hok

theorem execute_blob_of_ok {r : List Byte} (h : exec .execute s = .next t)
    (hr : valuesAnswer (askValidate s) = .blob r) :
    t = emit ⟨.ok, []⟩ (setRaw r (openResponse s.rqFc (askGetValues (askValidate s)))) := by
  obtain rfl := execute_of_ok hok h
  rw [hr] at hok ⊢
  exact finish_construct_blob_of_ok hok

end OkEnds

/-- What was held of a response in `s` is held in `t`, with the same value. -/
def KeepsViews (s t : State) : Prop :=
  (∀ b, s.bits = some b → t.bits = some b) ∧ (∀ r, s.raw = some r → t.raw = some r) ∧
    ∀ n, s.bc = some n → t.bc = some n

theorem KeepsViews.refl (s : State) : KeepsViews s s := ⟨fun _ => id, fun _ => id, fun _ => id⟩

theorem KeepsViews.trans {s t u : State} (h : KeepsViews s t) (g : KeepsViews t u) : KeepsViews s u := by
  obtain ⟨hbits, hraw, hbc⟩ := h
  obtain ⟨gbits, graw, gbc⟩ := g
  exact ⟨fun b hb => gbits b (hbits b hb), fun r hr => graw r (hraw r hr), fun n hn => gbc n (hbc n hn)⟩

theorem keepsViews_holdBits (s : State) : KeepsViews s (holdBits s) :=
  ⟨fun b hb => by rw [holdBits_bits, bitsView_of_bits s b hb], fun _ => id, fun _ => id⟩

theorem keepsViews_holdRaw (s : State) : KeepsViews s (holdRaw s) :=
  ⟨fun _ => id, fun r hr => by rw [holdRaw_raw, rawView_of_raw s r hr], fun _ => id⟩

theorem keepsViews_holdByteCount (s : State) : KeepsViews s (holdByteCount s) :=
  ⟨fun b hb => by rw [holdByteCount_bits, hb], holdByteCount_raw_of_held s,
    fun n hn => by rw [holdByteCount_bc]; simp [byteCount, hn]⟩

theorem KeepsViews.emit {s t : State} (h : KeepsViews s t) (r : Record) : KeepsViews s (emit r t) := h

theorem keepsViews_takeFault (c : Cause) (s : State) : KeepsViews s (takeFault c s) := KeepsViews.refl s

/-- The accessors drop no view and no count, however they end (R133). -/
theorem accessor_keepsViews {i : Instr} {s t : State}
    (hi : i.opcode ∈ [Opcode.rsGetBits, .rsGetRaw, .rsGetBc, .rsGetBit, .rsEnc]) (h : exec i s = .next t) :
    KeepsViews s t := by
  cases i with
  | rsGetBits =>
    rw [exec_rsGetBits] at h; cases h
    split
    · exact (keepsViews_holdBits s).emit _
    · exact keepsViews_takeFault _ s
  | rsGetRaw =>
    rw [exec_rsGetRaw] at h; cases h
    split
    · exact (keepsViews_holdRaw s).emit _
    · exact keepsViews_takeFault _ s
  | rsGetBc =>
    rw [exec_rsGetBc] at h; cases h
    split
    · exact (keepsViews_holdByteCount s).emit _
    · exact keepsViews_takeFault _ s
  | rsGetBit n =>
    rw [exec_rsGetBit] at h; cases h
    split_ifs
    · exact (keepsViews_holdBits s).emit _
    · exact keepsViews_takeFault _ s
    · exact keepsViews_takeFault _ s
  | rsEnc =>
    rw [exec_rsEnc] at h; cases h
    split_ifs
    · exact ((keepsViews_holdByteCount s).trans (keepsViews_holdRaw _)).emit _
    · exact keepsViews_takeFault _ s
    · exact keepsViews_takeFault _ s
  | _ => simp [Instr.opcode] at hi

/-- A command that faults leaves the response as it was (R133, R183). -/
theorem sameResponse_of_emitted_fault {i : Instr} {s t : State} {c : Cause} (h : exec i s = .next t)
    (hfault : Emitted s t (.fault c)) : SameResponse s t := by
  obtain ⟨u, e, hexec, hu, -, -, hbody⟩ := exec_ends i s
  obtain rfl : t = finish u e := (complete_next u t e).mp (hexec ▸ h)
  have hstart : SameResponse s u ∧ u.res = s.res := by
    rcases hu with rfl | ⟨-, rfl | rfl⟩ <;> simp [SameResponse]
  cases e with
  | ret p w =>
    have hres : (finish u (.ret p w)).res = s.res ++ [⟨.ok, p⟩] := by simp [(hbody p w rfl).res, hstart.2]
    exact absurd ((emitted_iff_of_res hres _).mp hfault) (by simp)
  | exc o =>
    have hres : (finish u (.exc o)).res = s.res ++ [⟨.exc o, []⟩] := by simp [hstart.2]
    exact absurd ((emitted_iff_of_res hres _).mp hfault) (by simp)
  | raise c' => exact hstart.1

/-- Settles O46: every mutator with status `OK` ends in `setBits`, `setRaw` or `openResponse`, the accessors only add
views, and a fault restores the response. -/
theorem invalidationList : Obligations.InvalidationList := by
  unfold Obligations.InvalidationList
  refine fun i s t h => ⟨fun hok => ⟨?_, ?_⟩, fun hi => accessor_keepsViews hi h,
    fun c hfault => sameResponse_of_emitted_fault h hfault⟩
  · rintro (⟨fc, p, rfl⟩ | ⟨e, rfl⟩ | ⟨n, v, rfl⟩ | ⟨n, rfl⟩ | ⟨fc, rfl⟩ | ⟨rfl, e, he⟩)
    · rw [rsNew_bits_of_ok hok h]; exact ⟨rfl, rfl⟩
    · rw [rsSetBits_of_ok hok h]; exact ⟨rfl, rfl⟩
    · obtain ⟨-, -, rfl⟩ := rsSetBit_of_ok hok h; exact ⟨rfl, rfl⟩
    · obtain ⟨-, -, rfl⟩ := rsSetBit_of_ok hok (exec_rsRstBit n s ▸ h); exact ⟨rfl, rfl⟩
    · rw [rsClr_of_ok hok h]; exact ⟨rfl, rfl⟩
    · rw [execute_seq_of_ok hok h he]; exact ⟨rfl, rfl⟩
  · rintro (⟨fc, p, rfl⟩ | ⟨r, rfl⟩ | ⟨d, rfl⟩ | ⟨fc, rfl⟩ | ⟨rfl, r, hr⟩)
    · rw [rsNew_raw_of_ok hok h]; exact ⟨rfl, rfl⟩
    · rw [rsSetRaw_of_ok hok h]; exact ⟨rfl, rfl⟩
    · obtain ⟨_, _, -, rfl⟩ := rsDec_of_ok hok h; exact ⟨rfl, rfl⟩
    · rw [rsClr_of_ok hok h]; exact ⟨rfl, rfl⟩
    · rw [execute_blob_of_ok hok h hr]; exact ⟨rfl, rfl⟩

/-- Settles O51: materialising the count or the raw view changes neither, and the request is no part of them. -/
theorem byteCountIsTheLengthOfTheRawView : Obligations.ByteCountIsTheLengthOfTheRawView := by
  unfold Obligations.ByteCountIsTheLengthOfTheRawView
  intro s h hv
  have hcount : byteCount s = (rawView s).length := byteCount_of_inv h
  refine ⟨rawView s, _, _, _, _, exec_rsGetBc_of_instance hv, ?_, exec_rsGetRaw_of_instance hv, rfl,
    exec_rsGetRaw_of_instance ?_, ?_, exec_rsGetBc_of_instance hv, ?_,
    fun hlen => ⟨_, exec_rsEnc_of_inv hv h hlen, rfl⟩,
    fun q fc a c => ⟨_, exec_rsGetBc_of_instance
      (s := { s with rqV := q, rqFc := fc, rqAddr := a, rqCount := c }) hv, ?_⟩⟩
  · rw [emit_res, holdByteCount_res, hcount]
  · rw [emit_rsV, holdByteCount_rsV, hv]
  · rw [emit_res, holdRaw_res, rawView_emit, rawView_holdByteCount]
  · rw [emit_res, holdByteCount_res, byteCount_emit, byteCount_holdRaw, hcount]
  · rw [emit_res, holdByteCount_res, ← hcount]; rfl

/-- Settles O52: the bits view after the write is the old one with that element replaced. -/
theorem setBitThenGetBit : Obligations.SetBitThenGetBit := by
  unfold Obligations.SetBitThenGetBit
  intro n v s t h hok
  obtain ⟨hv, hn, ht⟩ := rsSetBit_of_ok hok h
  have hvt : t.rsV = true := by rw [ht]; exact hv
  have hview : bitsView t = (bitsView s).set n.toNat (truth v) := by rw [ht]; rfl
  refine ⟨by rw [hview, List.length_set], ⟨_, exec_rsGetBit_of_getElem? hvt ?_, rfl⟩, fun m hmn hm => ?_⟩
  · rw [hview, List.getElem?_set_self hn]
  · have hne : n.toNat ≠ m.toNat := fun heq => hmn (BitVec.eq_of_toNat_eq heq.symm)
    have hget : (bitsView s)[m.toNat]? = some (bitsView s)[m.toNat] := List.getElem?_eq_getElem hm
    exact ⟨_, _, _, exec_rsGetBit_of_getElem? hv hget, rfl,
      exec_rsGetBit_of_getElem? hvt (by rw [hview, List.getElem?_set_ne hne, hget]), rfl⟩

/-- Settles O53: any instance's capacity is at least 255 bytes, so the encoded raw view fits it. -/
theorem encodeThenDecodeResponse : Obligations.EncodeThenDecodeResponse := by
  unfold Obligations.EncodeThenDecodeResponse
  intro s s' h hv hlen h' hv'
  have hfits (d : Byte) : (d :: rawView s).length ≤ 1 + s'.cfg.capBytes := by
    have := h'.capacity.1
    rw [List.length_cons]; omega
  have hdec (d : Byte) : exec (.rsDec (d :: rawView s)) s' = .next (emit ⟨.ok, [d]⟩ (setRaw (rawView s) s')) := by
    rw [exec_rsDec_cons, if_pos (hfits d), if_pos hv']
  refine ⟨_, _, _, rawView s, rfl, exec_rsEnc_of_inv hv h hlen, rfl, hdec _, ?_, rfl,
    exec_rsGetBits_of_instance hv', rfl, fun b hb => ?_⟩
  · exact if_pos hv'
  · rw [rawView_of_bits h hb, unpack_pack]

end Sys2Proof.Machine
end

section
/-! PROOFS. The system command (spec/43_execute_and_system.md R153): which numbers name a register, what the two control
registers read as (10_state.md R33), and the two ways `RDREG` can end. -/

namespace Sys2Proof.Machine

/-- The reserved register numbers are those above 0x0B (R33, R75). -/
theorem regOfByte_eq_none_iff (b : Byte) : regOfByte b = none ↔ 0x0B < b.toNat := by
  unfold regOfByte
  split
  case h_13 => simp only [true_iff, imp_false] at *; omega
  all_goals simp only [reduceCtorEq, false_iff]; omega

/-- A field written before `m` lower bits weighs `2 ^ m`. -/
theorem toNat_append_eq_mul_add {n m : Nat} (x : BitVec n) (y : BitVec m) :
    (x ++ y).toNat = x.toNat * 2 ^ m + y.toNat := by
  rw [BitVec.toNat_append, ← Nat.shiftLeft_add_eq_or_of_lt y.isLt, Nat.shiftLeft_eq]

/-- `RQ_CTL` as a number (R33). -/
theorem toNat_rqCtl (s : State) : s.rqCtl.toNat = if s.rqV then 256 * s.rqFc.toNat + 1 else 0 := by
  simp only [State.rqCtl, toNat_append_eq_mul_add, BitVec.toNat_ofBool, Bool.toNat, Bool.cond_eq_ite,
    apply_ite BitVec.toNat, BitVec.ofNat_eq_ofNat, BitVec.toNat_ofNat, Nat.zero_mod]
  split_ifs <;> omega

/-- `RS_CTL` as a number: the tag in the high byte, and below it a bit each for the instance, the two views and the
cached count (R33). -/
theorem toNat_rsCtl (s : State) :
    s.rsCtl.toNat = (if s.rsV then 256 * s.rsFc.toNat + 1 else 0) + (if s.bits.isSome then 2 else 0)
      + (if s.raw.isSome then 4 else 0) + (if s.bc.isSome then 8 else 0) := by
  simp only [State.rsCtl, State.bv, State.rv, State.cv, toNat_append_eq_mul_add, BitVec.toNat_ofBool, Bool.toNat,
    Bool.cond_eq_ite, apply_ite BitVec.toNat, BitVec.ofNat_eq_ofNat, BitVec.toNat_ofNat, Nat.zero_mod]
  split_ifs <;> omega

/-- `RDREG` of a register returns its 16-bit value (R153). -/
theorem exec_rdReg_of_register {reg : Byte} {r : Reg} (h : regOfByte reg = some r) (s : State) :
    exec (.rdReg reg) s = .next (emit ⟨.ok, be16 (s.readReg r)⟩ s) := by
  simp [exec, execRdReg, complete, h]

/-- `RDREG` of a reserved number faults (R153). -/
theorem exec_rdReg_of_reserved {reg : Byte} (h : regOfByte reg = none) (s : State) :
    exec (.rdReg reg) s = .next (takeFault .illOperand s) := by
  simp [exec, execRdReg, complete, h]

/-- Settles O57: a number up to 0x0B names a register, and the value returned is that register's; where a view or the
count is not held its register reads 0. -/
theorem rdRegReadsTheRegisterMap : Obligations.RdRegReadsTheRegisterMap := by
  unfold Obligations.RdRegReadsTheRegisterMap
  refine fun reg s => ⟨rfl, fun h => ?_, fun h => ?_⟩
  · rw [exec_rdReg_of_reserved ((regOfByte_eq_none_iff reg).mpr h), takeFault_of_ne_illCmd (by decide)]; rfl
  · obtain ⟨r, hr⟩ := Option.ne_none_iff_exists'.mp (mt (regOfByte_eq_none_iff reg).mp (Nat.not_lt.mpr h))
    have hread {k : Byte} (r' : Reg) (hk : regOfByte k = some r') (e : reg = k) : s.readReg r = s.readReg r' := by
      rw [← e, hr] at hk
      rw [Option.some.inj hk]
    refine ⟨s.readReg r, exec_rdReg_of_register hr s,
      fun e => (hread .rqCtl rfl e).trans (toNat_rqCtl s),
      hread .rqAddr rfl,
      hread .rqCount rfl,
      fun e => (hread .rsCtl rfl e).trans (toNat_rsCtl s),
      fun e => (hread .rsBlen rfl e).trans ?_,
      fun e => (hread .rsRlen rfl e).trans ?_,
      fun e => (hread .rsBc rfl e).trans ?_,
      hread .errStat rfl,
      hread .cfgCap rfl,
      hread .cfgBound rfl,
      hread .cfgRqLen rfl,
      hread .cfgBcPos rfl⟩
    · cases hbits : s.bits <;> simp [State.readReg, State.blen, hbits]
    · cases hraw : s.raw <;> simp [State.readReg, State.rlen, hraw]
    · cases hbc : s.bc <;> simp [State.readReg, State.bcReg, hbc]

end Sys2Proof.Machine
end

section
/-! PROOFS. Fault entry over steps (spec/60_exceptions.md R183): a command that faults has only taken the fault, from a
state whose data is the command's start; an illegal opcode takes `ILLCMD` before anything is consumed. -/

namespace Sys2Proof.Machine

/-- A fault record comes from a body that raised that fault, where the body itself emitted nothing (R170). -/
theorem eq_raise_of_emitted_fault {s u : State} {e : CmdEnd} {c : Cause} (hstart : u.res = s.res)
    (hbody : ∀ p t, e = .ret p t → t.res = u.res) (hfault : Emitted s (finish u e) (.fault c)) : e = .raise c := by
  have hstatus {r : Record} (hr : (finish u e).res = s.res ++ [r]) : r.status = .fault c :=
    (emitted_iff_of_res hr _).mp hfault
  cases e with
  | ret p t => exact nomatch hstatus (r := ⟨.ok, p⟩) (by simp [hbody p t rfl, hstart])
  | exc o => exact nomatch hstatus (r := ⟨.exc o, []⟩) (by simp [hstart])
  | raise c' => cases hstatus (r := ⟨.fault c', []⟩) (by simp [hstart]); rfl

/-- A command that emits a fault's record takes that fault, which is not `ILLCMD`, in its start state or in one in which
the datastore has been asked (R151, R183). -/
theorem exec_takesFault {i : Instr} {s t : State} {c : Cause} (h : exec i s = .next t)
    (hfault : Emitted s t (.fault c)) :
    c ≠ .illCmd ∧ ∃ u, (u = s ∨ u = askValidate s ∨ u = askGetValues (askValidate s)) ∧ t = takeFault c u := by
  obtain ⟨u, e, hexec, hu, -, hill, hbody⟩ := exec_ends i s
  obtain rfl : t = finish u e := (complete_next u t e).mp (hexec ▸ h)
  have hasked : u = s ∨ u = askValidate s ∨ u = askGetValues (askValidate s) := hu.imp_right And.right
  have hstart : u.res = s.res := by rcases hasked with rfl | rfl | rfl <;> simp
  obtain rfl := eq_raise_of_emitted_fault hstart (fun p t he => (hbody p t he).res) hfault
  exact ⟨by rintro rfl; exact hill rfl, u, hasked, finish_raise u c⟩

/-- Settles O14: a decoded command has moved `pc` past itself before it takes its fault, and neither the datastore's
queries nor the fault touch the two frames; an undecodable head takes `ILLCMD` in the state the step began in. -/
theorem faultsArePrecise : Obligations.FaultsArePrecise := by
  unfold Obligations.FaultsArePrecise
  intro s t c h hfault
  obtain ⟨-, ⟨i, rest, hdec, hexec⟩ | ⟨-, rfl⟩⟩ := step_cases s t h
  · obtain ⟨hc, u, hu, rfl⟩ := exec_takesFault hexec hfault
    have hhalted : (takeFault c u).halted = u.halted := by rw [takeFault_of_ne_illCmd hc]
    rcases hu with rfl | rfl | rfl <;>
      exact ⟨⟨rfl, rfl, rfl, rfl⟩, ⟨rfl, rfl, rfl, rfl, rfl⟩, rfl, rfl, fun _ => ⟨hhalted, i, rest, hdec, rfl⟩,
        fun hill => absurd hill hc⟩
  · cases (emitted_iff_of_res (takeFault_res .illCmd s) _).mp hfault
    exact ⟨⟨rfl, rfl, rfl, rfl⟩, ⟨rfl, rfl, rfl, rfl, rfl⟩, rfl, rfl, fun hne => absurd rfl hne,
      fun _ => ⟨Bool.or_true s.halted, rfl, rfl⟩⟩

end Sys2Proof.Machine
end

section
/-! PROOFS. Encoding and decoding (spec/30_encoding.md R70 to R77). Each of the operand formats is read back from its
encoding, and whatever it reads is such an encoding; the nineteen commands then follow their format. -/

namespace Sys2Proof

theorem encode_eq_cons (i : Instr) : encode i = i.opcode.code :: encodeOperands i := rfl

/-- After an opcode of the map the decoder reads that opcode's operands (R73). -/
theorem decode_cons_of_ofByte {b : Byte} {o : Opcode} (h : Opcode.ofByte b = some o) (bs : List Byte) :
    decode (b :: bs) = decodeOperands o bs := by
  simp [decode, h]

/-- A byte that is no opcode of the map is illegal (R74). -/
theorem decode_cons_of_ofByte_eq_none {b : Byte} (h : Opcode.ofByte b = none) (bs : List Byte) :
    decode (b :: bs) = .illegal b := by
  simp [decode, h]

/-! What each format's operand bytes are read back as. -/

theorem decodeLength_encodePayload (mk : List Byte → Instr) {p : List Byte} (rest : List Byte)
    (h : payloadFits p = true) : decodeLength mk (encodePayload p ++ rest) = .command (mk p) rest := by
  have hlen : p.length < 65536 := Nat.lt_succ_of_le (of_decide_eq_true h)
  simp [encodePayload, be16, decodeLength, unbe16_be16 p.length hlen, decodePayload_append]

theorem decodeConstruct_encodePayload (mk : Byte → Byte → List Byte → Instr) (fc kind : Byte) {p : List Byte}
    (rest : List Byte) (h : payloadFits p = true) :
    decodeConstruct mk (fc :: kind :: encodePayload p ++ rest) = .command (mk fc kind p) rest :=
  decodeLength_encodePayload (mk fc kind) rest h

theorem decodeIndex_be16 (mk : Half → Instr) (n : Half) (rest : List Byte) :
    decodeIndex mk (be16 n.toNat ++ rest) = .command (mk n) rest := by
  simp [be16, decodeIndex, half_be16]

theorem decodeIndexValue_be16 (mk : Half → Byte → Instr) (n : Half) (v : Byte) (rest : List Byte) :
    decodeIndexValue mk (be16 n.toNat ++ [v] ++ rest) = .command (mk n v) rest := by
  simp [be16, decodeIndexValue, half_be16]

theorem decodeRequest_be16 (mk : Byte → Half → Half → Instr) (fc : Byte) (a c : Half) (rest : List Byte) :
    decodeRequest mk (fc :: (be16 a.toNat ++ be16 c.toNat) ++ rest) = .command (mk fc a c) rest := by
  simp [be16, decodeRequest, half_be16]

/-- The operand bytes of a well-formed command are read back as that command (R71). -/
theorem decodeOperands_encodeOperands (i : Instr) (rest : List Byte) (h : i.wellFormed = true) :
    decodeOperands i.opcode (encodeOperands i ++ rest) = .command i rest := by
  cases i with
  | pack p | unpack p | rqDec p | rsSetBits p | rsSetRaw p | rsDec p => exact decodeLength_encodePayload _ rest h
  | rsNew fc kind p => exact decodeConstruct_encodePayload _ fc kind rest h
  | rqNew fc a c => exact decodeRequest_be16 _ fc a c rest
  | rsSetBit n v => exact decodeIndexValue_be16 _ n v rest
  | rsRstBit n | rsGetBit n => exact decodeIndex_be16 _ n rest
  | rsClr b | rdReg b => rfl
  | rqEnc | rsGetBits | rsGetRaw | rsGetBc | rsEnc | execute => rfl

/-- The opcode byte selects the command's own row, whose format reads its operands back (R70). -/
theorem decode_encode_append (i : Instr) (rest : List Byte) (h : i.wellFormed = true) :
    decode (encode i ++ rest) = .command i rest := by
  rw [encode_eq_cons, List.cons_append, decode_cons_of_ofByte (ofByte_code i.opcode),
    decodeOperands_encodeOperands i rest h]

/-- Settles O2: the round trip holds of every operand format. -/
theorem encodedCommandDecodesToItself : Obligations.EncodedCommandDecodesToItself := by
  unfold Obligations.EncodedCommandDecodesToItself
  exact decode_encode_append

/-! What each format reads is such an encoding. -/

theorem of_decodeByte_eq_command {mk : Byte → Instr} {bs rest : List Byte} {i : Instr}
    (h : decodeByte mk bs = .command i rest) : ∃ b, bs = b :: rest ∧ i = mk b := by
  unfold decodeByte at h
  split at h
  · cases h; exact ⟨_, rfl, rfl⟩
  · cases h

theorem of_decodeIndex_eq_command {mk : Half → Instr} {bs rest : List Byte} {i : Instr}
    (h : decodeIndex mk bs = .command i rest) : ∃ n : Half, bs = be16 n.toNat ++ rest ∧ i = mk n := by
  unfold decodeIndex at h
  split at h
  · cases h; exact ⟨_, by rw [be16_half]; rfl, rfl⟩
  · cases h

theorem of_decodeIndexValue_eq_command {mk : Half → Byte → Instr} {bs rest : List Byte} {i : Instr}
    (h : decodeIndexValue mk bs = .command i rest) :
    ∃ (n : Half) (v : Byte), bs = be16 n.toNat ++ [v] ++ rest ∧ i = mk n v := by
  unfold decodeIndexValue at h
  split at h
  · cases h; exact ⟨_, _, by rw [be16_half]; rfl, rfl⟩
  · cases h

theorem of_decodeRequest_eq_command {mk : Byte → Half → Half → Instr} {bs rest : List Byte} {i : Instr}
    (h : decodeRequest mk bs = .command i rest) :
    ∃ (fc : Byte) (a c : Half), bs = fc :: (be16 a.toNat ++ be16 c.toNat) ++ rest ∧ i = mk fc a c := by
  unfold decodeRequest at h
  split at h
  · cases h; exact ⟨_, _, _, by rw [be16_half, be16_half]; rfl, rfl⟩
  · cases h

theorem of_decodeLength_eq_command {mk : List Byte → Instr} {bs rest : List Byte} {i : Instr}
    (h : decodeLength mk bs = .command i rest) :
    ∃ p, payloadFits p = true ∧ bs = encodePayload p ++ rest ∧ i = mk p := by
  unfold decodeLength at h
  split at h
  · obtain ⟨p, hlen, rfl, rfl⟩ := decodePayload_command _ _ _ _ _ h
    refine ⟨p, decide_eq_true ?_, ?_, rfl⟩
    · exact hlen ▸ Nat.le_of_lt_succ (unbe16_lt _ _)
    · rw [encodePayload, hlen, be16_unbe16]; rfl
  · cases h

theorem of_decodeConstruct_eq_command {mk : Byte → Byte → List Byte → Instr} {bs rest : List Byte} {i : Instr}
    (h : decodeConstruct mk bs = .command i rest) :
    ∃ fc kind p, payloadFits p = true ∧ bs = fc :: kind :: encodePayload p ++ rest ∧ i = mk fc kind p := by
  unfold decodeConstruct at h
  split at h
  · rename_i fc kind high low tail
    obtain ⟨p, hp, hbs, rfl⟩ := of_decodeLength_eq_command (mk := mk fc kind) (bs := high :: low :: tail) h
    exact ⟨fc, kind, p, hp, by rw [hbs]; rfl, rfl⟩
  · cases h

/-- Operand bytes that are read as a command are that command's own (R71). -/
theorem of_decodeOperands_eq_command {o : Opcode} {bs rest : List Byte} {i : Instr}
    (h : decodeOperands o bs = .command i rest) :
    i.opcode = o ∧ i.wellFormed = true ∧ bs = encodeOperands i ++ rest := by
  cases o with
  | pack | unpack | rqDec | rsSetBits | rsSetRaw | rsDec =>
    obtain ⟨p, hp, rfl, rfl⟩ := of_decodeLength_eq_command h
    exact ⟨rfl, hp, rfl⟩
  | rsNew =>
    obtain ⟨fc, kind, p, hp, rfl, rfl⟩ := of_decodeConstruct_eq_command h
    exact ⟨rfl, hp, rfl⟩
  | rqNew =>
    obtain ⟨fc, a, c, rfl, rfl⟩ := of_decodeRequest_eq_command h
    exact ⟨rfl, rfl, rfl⟩
  | rsSetBit =>
    obtain ⟨n, v, rfl, rfl⟩ := of_decodeIndexValue_eq_command h
    exact ⟨rfl, rfl, rfl⟩
  | rsRstBit | rsGetBit =>
    obtain ⟨n, rfl, rfl⟩ := of_decodeIndex_eq_command h
    exact ⟨rfl, rfl, rfl⟩
  | rsClr | rdReg =>
    obtain ⟨b, rfl, rfl⟩ := of_decodeByte_eq_command h
    exact ⟨rfl, rfl, rfl⟩
  | rqEnc | rsGetBits | rsGetRaw | rsGetBc | rsEnc | execute =>
    cases h
    exact ⟨rfl, rfl, rfl⟩

/-- A byte string that decodes to a command is that command's encoding and the rest (R70). -/
theorem of_decode_eq_command {bs rest : List Byte} {i : Instr} (h : decode bs = .command i rest) :
    i.wellFormed = true ∧ bs = encode i ++ rest := by
  cases bs with
  | nil => cases h
  | cons b bs =>
    cases ho : Opcode.ofByte b with
    | none => rw [decode_cons_of_ofByte_eq_none ho] at h; cases h
    | some o =>
      rw [decode_cons_of_ofByte ho] at h
      obtain ⟨rfl, hwf, rfl⟩ := of_decodeOperands_eq_command h
      exact ⟨hwf, by rw [encode_eq_cons, code_of_ofByte b _ ho]; rfl⟩

/-- The encoding has the length of the command's format (R71, R76). -/
theorem encode_length : ∀ i : Instr, (encode i).length = i.byteLength
  | .pack e => (Laws.EncodedForm.pack e).2
  | .unpack r => (Laws.EncodedForm.unpack r).2
  | .rqNew fc a c => (Laws.EncodedForm.rqNew fc a c).2
  | .rqEnc => Laws.EncodedForm.rqEnc.2
  | .rqDec d => (Laws.EncodedForm.rqDec d).2
  | .rsClr fc => (Laws.EncodedForm.rsClr fc).2
  | .rsNew fc k p => (Laws.EncodedForm.rsNew fc k p).2
  | .rsGetBits => Laws.EncodedForm.rsGetBits.2
  | .rsGetRaw => Laws.EncodedForm.rsGetRaw.2
  | .rsGetBc => Laws.EncodedForm.rsGetBc.2
  | .rsSetBits e => (Laws.EncodedForm.rsSetBits e).2
  | .rsSetRaw r => (Laws.EncodedForm.rsSetRaw r).2
  | .rsSetBit n v => (Laws.EncodedForm.rsSetBit n v).2
  | .rsRstBit n => (Laws.EncodedForm.rsRstBit n).2
  | .rsGetBit n => (Laws.EncodedForm.rsGetBit n).2
  | .rsEnc => Laws.EncodedForm.rsEnc.2
  | .rsDec d => (Laws.EncodedForm.rsDec d).2
  | .execute => Laws.EncodedForm.execute.2
  | .rdReg r => (Laws.EncodedForm.rdReg r).2

/-- How many operand bytes a format has after the opcode, a length byte that has not arrived counting as zero (R71,
R76). -/
def operandLength : Format → List Byte → Nat
  | .n, _ => 0
  | .f, _ => 1
  | .g, _ => 1
  | .i, _ => 2
  | .v, _ => 3
  | .r, _ => 5
  | .l, bs => 2 + unbe16 (bs.getD 0 0) (bs.getD 1 0)
  | .k, bs => 4 + unbe16 (bs.getD 2 0) (bs.getD 3 0)

/-- A command's length is the opcode byte and its operand bytes (R76). -/
theorem commandLength_cons (b : Byte) (bs : List Byte) :
    commandLength (b :: bs) = (Opcode.ofByte b).map fun o => operandLength o.format bs + 1 := by
  unfold commandLength
  rw [List.getD_cons_zero]
  congr 1
  funext o
  cases o.format <;> simp only [operandLength, List.getD_cons_succ] <;> omega

/-- The length field of an encoded payload is read as that payload's length (R72). -/
theorem operandLength_encodePayload {p : List Byte} (rest : List Byte) (h : payloadFits p = true) :
    operandLength .l (encodePayload p ++ rest) = (encodePayload p).length := by
  have hlen : p.length < 65536 := Nat.lt_succ_of_le (of_decide_eq_true h)
  simp [operandLength, encodePayload, be16, unbe16_be16 p.length hlen]
  omega

/-- The length field of a construction is read after its tag and kind (R71, R72). -/
theorem operandLength_construct (fc kind : Byte) {p : List Byte} (rest : List Byte) (h : payloadFits p = true) :
    operandLength .k (fc :: kind :: encodePayload p ++ rest) = (fc :: kind :: encodePayload p).length := by
  have hpayload := operandLength_encodePayload rest h
  simp only [operandLength, List.cons_append, List.getD_cons_succ, List.length_cons] at hpayload ⊢
  omega

/-- What R76 computes from the operand bytes of a well-formed command is their number. -/
theorem operandLength_encodeOperands (i : Instr) (rest : List Byte) (h : i.wellFormed = true) :
    operandLength i.opcode.format (encodeOperands i ++ rest) = (encodeOperands i).length := by
  cases i with
  | pack p | unpack p | rqDec p | rsSetBits p | rsSetRaw p | rsDec p => exact operandLength_encodePayload rest h
  | rsNew fc kind p => exact operandLength_construct fc kind rest h
  | _ => rfl

/-- What R76 computes from the bytes of a well-formed command is that command's length. -/
theorem commandLength_encode (i : Instr) (rest : List Byte) (h : i.wellFormed = true) :
    commandLength (encode i ++ rest) = some i.byteLength := by
  rw [encode_eq_cons, List.cons_append, commandLength_cons, ofByte_code, Option.map_some,
    operandLength_encodeOperands i rest h, ← encode_length i, encode_eq_cons, List.length_cons]

/-- Settles O3: each operand format reads only encodings, and the two lengths are those of the encoding. -/
theorem decodedBytesAreTheEncoding : Obligations.DecodedBytesAreTheEncoding := by
  unfold Obligations.DecodedBytesAreTheEncoding
  intro bs rest i h
  obtain ⟨hwf, rfl⟩ := of_decode_eq_command h
  exact ⟨hwf, rfl, encode_length i, commandLength_encode i rest hwf⟩

/-! When the operand bytes have not all arrived. -/

theorem decodePayload_eq_incomplete_iff (n : Nat) (mk : List Byte → Instr) (bs : List Byte) :
    decodePayload n mk bs = .incomplete ↔ bs.length < n := by
  simp [decodePayload]

theorem decodeByte_eq_incomplete_iff (mk : Byte → Instr) :
    ∀ bs : List Byte, decodeByte mk bs = .incomplete ↔ bs.length < 1
  | [] => by simp [decodeByte]
  | _ :: _ => by simp [decodeByte]

theorem decodeIndex_eq_incomplete_iff (mk : Half → Instr) :
    ∀ bs : List Byte, decodeIndex mk bs = .incomplete ↔ bs.length < 2
  | [] | [_] => by simp [decodeIndex]
  | _ :: _ :: _ => by simp [decodeIndex]

theorem decodeIndexValue_eq_incomplete_iff (mk : Half → Byte → Instr) :
    ∀ bs : List Byte, decodeIndexValue mk bs = .incomplete ↔ bs.length < 3
  | [] | [_] | [_, _] => by simp [decodeIndexValue]
  | _ :: _ :: _ :: _ => by simp [decodeIndexValue]

theorem decodeRequest_eq_incomplete_iff (mk : Byte → Half → Half → Instr) :
    ∀ bs : List Byte, decodeRequest mk bs = .incomplete ↔ bs.length < 5
  | [] | [_] | [_, _] | [_, _, _] | [_, _, _, _] => by simp [decodeRequest]
  | _ :: _ :: _ :: _ :: _ :: _ => by simp [decodeRequest]

theorem decodeLength_eq_incomplete_iff (mk : List Byte → Instr) :
    ∀ bs : List Byte, decodeLength mk bs = .incomplete ↔ bs.length < operandLength .l bs
  | [] => by simp [decodeLength, operandLength]
  | [_] => by simp [decodeLength, operandLength]; omega
  | _ :: _ :: _ => by simp [decodeLength, decodePayload_eq_incomplete_iff, operandLength]; omega

theorem decodeConstruct_eq_incomplete_iff (mk : Byte → Byte → List Byte → Instr) :
    ∀ bs : List Byte, decodeConstruct mk bs = .incomplete ↔ bs.length < operandLength .k bs
  | [] => by simp [decodeConstruct, operandLength]
  | [_] | [_, _] | [_, _, _] => by simp [decodeConstruct, operandLength]; omega
  | _ :: _ :: _ :: _ :: _ => by simp [decodeConstruct, decodePayload_eq_incomplete_iff, operandLength]; omega

/-- Operand bytes are incomplete exactly where there are fewer than their format has (R77). -/
theorem decodeOperands_eq_incomplete_iff (o : Opcode) (bs : List Byte) :
    decodeOperands o bs = .incomplete ↔ bs.length < operandLength o.format bs := by
  cases o with
  | pack | unpack | rqDec | rsSetBits | rsSetRaw | rsDec => exact decodeLength_eq_incomplete_iff _ bs
  | rsNew => exact decodeConstruct_eq_incomplete_iff _ bs
  | rqNew => exact decodeRequest_eq_incomplete_iff _ bs
  | rsSetBit => exact decodeIndexValue_eq_incomplete_iff _ bs
  | rsRstBit | rsGetBit => exact decodeIndex_eq_incomplete_iff _ bs
  | rsClr | rdReg => exact decodeByte_eq_incomplete_iff _ bs
  | rqEnc | rsGetBits | rsGetRaw | rsGetBc | rsEnc | execute =>
    simp [decodeOperands, Opcode.format, operandLength]

/-- Settles O4: after an illegal opcode there is no length, after a legal one the operands decide. -/
theorem incompleteExactlyWhenBytesAreMissing : Obligations.IncompleteExactlyWhenBytesAreMissing := by
  unfold Obligations.IncompleteExactlyWhenBytesAreMissing
  intro bs
  cases bs with
  | nil => simp [decode]
  | cons b bs =>
    cases ho : Opcode.ofByte b with
    | none => simp [decode_cons_of_ofByte_eq_none ho, commandLength_cons, ho]
    | some o => simp [decode_cons_of_ofByte ho, commandLength_cons, ho, decodeOperands_eq_incomplete_iff]

/-- Settles O1: each word is the encoding of its command, but for the byte left over. -/
theorem specExampleWordsDecode : Obligations.SpecExampleWordsDecode := by
  unfold Obligations.SpecExampleWordsDecode
  exact ⟨decode_encode_append (.pack [1, 0, 1]) [] rfl, decode_encode_append (.rqNew 1 0x0013 0x0025) [] rfl,
    decode_encode_append (.rsNew 1 7 [0x3F, 0x80, 0, 0]) [] rfl, decode_encode_append (.rsSetBit 2 1) [0x33] rfl,
    decode_encode_append (.rdReg 0x0A) [] rfl⟩

end Sys2Proof
end

section
/-! PROOFS. What every command leaves (spec/60_exceptions.md R170, R183; 10_state.md R22, R24, R39): said once of a
command from its start state to its next state, whichever way it ends, and then read off for the statements over all
commands. -/

namespace Sys2Proof.Machine

theorem SameSequencing.trans {s t u : State} (h : SameSequencing s t) (g : SameSequencing t u) :
    SameSequencing s u := by
  unfold SameSequencing at *; simp_all

/-- The sequencing state and both frames are unchanged. -/
structure SameData (s t : State) : Prop where
  sequencing : SameSequencing s t
  request : SameRequest s t
  response : SameResponse s t

/-- A command's body begins in a state that differs from the command's start in the datastore port alone (R151). -/
theorem sameData_of_asked {i : Instr} {s u : State}
    (h : u = s ∨ (i = .execute ∧ (u = askValidate s ∨ u = askGetValues (askValidate s)))) :
    SameData s u ∧ u.err = s.err ∧ u.res = s.res := by
  rcases h with rfl | ⟨-, rfl | rfl⟩ <;>
    exact ⟨⟨⟨rfl, rfl, rfl, rfl⟩, ⟨rfl, rfl, rfl, rfl⟩, ⟨rfl, rfl, rfl, rfl, rfl⟩⟩, rfl, rfl⟩

theorem sameData_emit (r : Record) (s : State) : SameData s (emit r s) :=
  ⟨⟨rfl, rfl, rfl, rfl⟩, ⟨rfl, rfl, rfl, rfl⟩, ⟨rfl, rfl, rfl, rfl, rfl⟩⟩

/-- Only the fault of an illegal opcode halts (R178). -/
theorem sameData_takeFault {c : Cause} (h : c ≠ .illCmd) (s : State) : SameData s (takeFault c s) := by
  rw [takeFault_of_ne_illCmd h]
  exact ⟨⟨rfl, rfl, rfl, rfl⟩, ⟨rfl, rfl, rfl, rfl⟩, ⟨rfl, rfl, rfl, rfl, rfl⟩⟩

/-- What a command may write, whichever way it ends: no sequencing state, and no frame or port of another family. -/
structure CommandWrites (i : Instr) (s t : State) : Prop where
  sequencing : SameSequencing s t
  request : s.rqV = true → t.rqV = true
  response : s.rsV = true → t.rsV = true
  tag : (∀ fc a c, i ≠ .rqNew fc a c) → t.rqV = s.rqV ∧ t.rqFc = s.rqFc
  fields : (∀ fc a c, i ≠ .rqNew fc a c) → (∀ d, i ≠ .rqDec d) → SameRequest s t
  frame : i.opcode ∈ [Opcode.pack, .unpack, .rqNew, .rqEnc, .rqDec, .rdReg] → SameResponse s t
  ds : i ≠ .execute → SameDs s t

theorem CommandWrites.trans {i : Instr} {s t u : State} (h : CommandWrites i s t) (g : CommandWrites i t u) :
    CommandWrites i s u where
  sequencing := h.sequencing.trans g.sequencing
  request := g.request ∘ h.request
  response := g.response ∘ h.response
  tag hi := ⟨(g.tag hi).1.trans (h.tag hi).1, (g.tag hi).2.trans (h.tag hi).2⟩
  fields hi hd := (h.fields hi hd).trans (g.fields hi hd)
  frame hi := (h.frame hi).trans (g.frame hi)
  ds hi := (h.ds hi).trans (g.ds hi)

theorem SameData.commandWrites {i : Instr} {s t : State} (h : SameData s t) (hds : i ≠ .execute → SameDs s t) :
    CommandWrites i s t where
  sequencing := h.sequencing
  request := h.request.1.trans
  response := h.response.1.trans
  tag _ := ⟨h.request.1, h.request.2.1⟩
  fields _ _ := h.request
  frame _ := h.response
  ds := hds

/-- Of the ways to end, only a return writes data, and that is what the body wrote (R170, R183). -/
theorem finish_commandWrites {i : Instr} {u : State} {e : CmdEnd} (hill : e ≠ .raise .illCmd)
    (hbody : ∀ p t, e = .ret p t → BodyWrites i u t) : CommandWrites i u (finish u e) := by
  cases e with
  | ret p t =>
    obtain ⟨hseq, -, -, hds, hrq, hrs, htag, hfields, hframe⟩ := hbody p t rfl
    exact ⟨hseq, hrq, hrs, htag, hfields, hframe, fun _ => hds⟩
  | exc o => exact (sameData_emit _ u).commandWrites fun _ => ⟨rfl, rfl, rfl, rfl⟩
  | raise c => exact (sameData_takeFault (fun hc => hill (hc ▸ rfl)) u).commandWrites fun _ => ⟨rfl, rfl, rfl, rfl⟩

theorem exec_commandWrites {i : Instr} {s t : State} (h : exec i s = .next t) : CommandWrites i s t := by
  obtain ⟨u, e, hexec, hu, -, hill, hbody⟩ := exec_ends i s
  obtain rfl : t = finish u e := (complete_next u t e).mp (hexec ▸ h)
  have hstart : i ≠ .execute → SameDs s u := fun hi => by
    obtain rfl | ⟨rfl, -⟩ := hu
    · exact ⟨rfl, rfl, rfl, rfl⟩
    · exact absurd rfl hi
  exact ((sameData_of_asked hu).1.commandWrites hstart).trans (finish_commandWrites hill hbody)

/-- Settles O13: the body's end is one record, and before it only the datastore port has changed. -/
theorem everyCommandEmitsOneRecord : Obligations.EveryCommandEmitsOneRecord := by
  unfold Obligations.EveryCommandEmitsOneRecord
  intro i s
  obtain ⟨u, e, hexec, hu, hexc, -, hbody⟩ := exec_ends i s
  obtain ⟨hdata, herr, hres⟩ := sameData_of_asked hu
  have hnext : exec i s = .next (finish u e) := hexec
  have hseq : SameSequencing s (finish u e) := (exec_commandWrites hnext).sequencing
  cases e with
  | ret p t =>
    have ht := hbody p t rfl
    exact ⟨_, ⟨.ok, p⟩, hnext, by simp [ht.res, hres], by simp, hseq, by simp, fun _ => ht.err.trans herr⟩
  | exc o =>
    exact ⟨_, ⟨.exc o, []⟩, hnext, by simp [hres], by simp, hseq,
      fun _ _ => ⟨hexc o rfl, herr, hdata.request, hdata.response⟩, by simp⟩
  | raise c => exact ⟨_, ⟨.fault c, []⟩, hnext, by simp [hres], by simp, hseq, by simp, by simp⟩

/-- Settles O16: the two flags and the tag are among what a command may not write. -/
theorem instancesPersist : Obligations.InstancesPersist := by
  unfold Obligations.InstancesPersist
  intro i s t h
  obtain ⟨-, hrq, hrs, htag, -, -, -⟩ := exec_commandWrites h
  exact ⟨hrq, hrs, htag⟩

/-- Settles O17: so are the frames and the port of another family. -/
theorem commandsStayInTheirFamily : Obligations.CommandsStayInTheirFamily := by
  unfold Obligations.CommandsStayInTheirFamily
  intro i s t h
  obtain ⟨-, -, -, -, hfields, hframe, hds⟩ := exec_commandWrites h
  exact ⟨hfields, hframe, hds⟩

end Sys2Proof.Machine
end

section
/-! PROOFS. Execution (spec/43_execute_and_system.md R150, R154): `EXEC` as one equation, whose tests stand in the
order of R150; each statement about `EXEC` picks a branch of it. The other equations of this part are those of the
commands that had one per case so far. -/

namespace Sys2Proof.Machine

/-- `EXEC` with both queries made: a response of the request's tag is constructed from the answer (R150 step 3). -/
def executeFetch (s : State) : State :=
  finish (askGetValues (askValidate s))
    (construct s.rqFc (valuesAnswer (askValidate s)) (askGetValues (askValidate s)))

theorem exec_execute (s : State) :
    exec .execute s = .next (if s.rqV
      then if 1 ≤ s.rqCount.toNat ∧ s.rqCount.toNat ≤ 2000
        then if validateAnswer s then executeFetch s else emit ⟨.exc .illegalAddress, []⟩ (askValidate s)
        else emit ⟨.exc .illegalValue, []⟩ s
      else takeFault .noInst s) := by
  simp only [exec, execExec, countInRange_iff, complete, executeFetch, finish_exc, finish_raise]
  split_ifs <;> rfl

theorem exec_rqEnc (s : State) :
    exec .rqEnc s = .next (if s.rqV then emit ⟨.ok, requestBody s.rqAddr s.rqCount⟩ s else takeFault .noInst s) := by
  cases hv : s.rqV
  · exact exec_rqEnc_of_no_instance hv
  · exact exec_rqEnc_of_instance hv

theorem exec_rqDec (data : List Byte) (s : State) :
    exec (.rqDec data) s = .next (if s.rqV
      then (requestFields data).elim (takeFault .framing s) fun f => emit ⟨.ok, []⟩ (setRequestFields f.1 f.2 s)
      else takeFault .noInst s) := by
  cases hv : s.rqV <;> cases hf : requestFields data <;> simp [exec, execRqDec, complete, needRequest, hv, hf]

theorem exec_rdReg (reg : Byte) (s : State) :
    exec (.rdReg reg) s = .next ((regOfByte reg).elim (takeFault .illOperand s)
      fun r => emit ⟨.ok, be16 (s.readReg r)⟩ s) := by
  cases hr : regOfByte reg with
  | none => exact exec_rdReg_of_reserved hr s
  | some r => exact exec_rdReg_of_register hr s

/-- A count outside the range of R6 is refused before anything is asked (R150 step 1). -/
theorem exec_execute_of_count_out_of_range {s : State} (hv : s.rqV = true)
    (hcount : s.rqCount.toNat < 1 ∨ 2000 < s.rqCount.toNat) :
    exec .execute s = .next (emit ⟨.exc .illegalValue, []⟩ s) := by
  rw [exec_execute, if_pos hv, if_neg (by omega)]

section InRange
variable {s : State} (hv : s.rqV = true) (hmin : 1 ≤ s.rqCount.toNat) (hmax : s.rqCount.toNat ≤ 2000)
include hv hmin hmax

theorem exec_execute_of_not_valid (hvalid : validateAnswer s = false) :
    exec .execute s = .next (emit ⟨.exc .illegalAddress, []⟩ (askValidate s)) := by
  rw [exec_execute, if_pos hv, if_pos ⟨hmin, hmax⟩, if_neg (ne_true_of_eq_false hvalid)]

theorem exec_execute_of_valid (hvalid : validateAnswer s = true) :
    exec .execute s = .next (executeFetch s) := by
  rw [exec_execute, if_pos hv, if_pos ⟨hmin, hmax⟩, if_pos hvalid]

end InRange

theorem executeFetch_of_seq {s : State} {e : List Byte} (he : valuesAnswer (askValidate s) = .seq e) :
    executeFetch s = if e.length ≤ 8 * s.cfg.capBytes
      then emit ⟨.ok, []⟩ (setBits (e.map truth) (openResponse s.rqFc (askGetValues (askValidate s))))
      else takeFault .capacity (askGetValues (askValidate s)) := by
  rw [executeFetch, he, finish_construct_seq]; rfl

theorem executeFetch_of_blob {s : State} {r : List Byte} (hr : valuesAnswer (askValidate s) = .blob r) :
    executeFetch s = if r.length ≤ s.cfg.capBytes
      then emit ⟨.ok, []⟩ (setRaw r (openResponse s.rqFc (askGetValues (askValidate s))))
      else takeFault .capacity (askGetValues (askValidate s)) := by
  rw [executeFetch, hr, finish_construct_blob]; rfl

theorem executeFetch_of_other {s : State} (h : valuesAnswer (askValidate s) = .other) :
    executeFetch s = takeFault .construction (askGetValues (askValidate s)) := by
  rw [executeFetch, h, finish_construct_other]

/-- The state in which both queries have been made, field by field (R86, R150). -/
theorem askGetValues_askValidate (s : State) : askGetValues (askValidate s) = { s with
    dsValidateIn := s.dsValidateIn.tail, dsValuesIn := s.dsValuesIn.tail, dsTick := s.dsTick + 2,
    dsQueries := s.dsQueries ++
      [⟨.validate, s.rqFc, s.rqAddr, s.rqCount⟩, ⟨.getValues, s.rqFc, s.rqAddr, s.rqCount⟩] } := by
  simp [askGetValues, askValidate, dsQuery]

/-- Settles O54: one branch of the command's equation for each clause. -/
theorem execRunsTheThreeSteps : Obligations.ExecRunsTheThreeSteps := by
  unfold Obligations.ExecRunsTheThreeSteps
  refine fun s => ⟨rfl, fun hv => ?_, fun hv hcount => ?_, fun hv hmin hmax hvalid => ?_, fun hv hmin hmax hvalid =>
    ⟨_, askGetValues_askValidate s, ?_⟩⟩
  · rw [exec_execute, if_neg (ne_true_of_eq_false hv), takeFault_of_ne_illCmd (by decide)]; rfl
  · rw [exec_execute_of_count_out_of_range hv hcount]; rfl
  · rw [exec_execute_of_not_valid hv hmin hmax hvalid]; rfl
  · have hcapacity := takeFault_of_ne_illCmd (c := .capacity) (by decide) (askGetValues (askValidate s))
    rw [exec_execute_of_valid hv hmin hmax hvalid]
    refine ⟨fun h => ?_, fun e he hlen => ?_, fun e he hlen => ?_, fun r hr hlen => ?_, fun r hr hlen => ?_⟩
    · rw [executeFetch_of_other h, takeFault_of_ne_illCmd (by decide)]; rfl
    · rw [executeFetch_of_seq he, if_pos hlen]; rfl
    · rw [executeFetch_of_seq he, if_neg (Nat.not_le.mpr hlen), hcapacity]; rfl
    · rw [executeFetch_of_blob hr, if_pos hlen]; rfl
    · rw [executeFetch_of_blob hr, if_neg (Nat.not_le.mpr hlen), hcapacity]; rfl

/-- Under a legal tag the fetch of an answer is `RS.NEW` of any kind and payload that stand for it (R122, R150). -/
theorem executeFetch_eq_rsNew {s : State} (htag : s.rqFc = 1 ∨ s.rqFc = 2) {kind : Byte} {p : List Byte}
    (hanswer : valuesAnswer (askValidate s) = valuesOfKind kind p) :
    .next (executeFetch s) = exec (.rsNew s.rqFc kind p) (askGetValues (askValidate s)) := by
  rw [exec_rsNew, if_pos htag, executeFetch, hanswer]

/-- Settles O55: the invariant makes the request's tag legal, and each answer is the values of its kind. -/
theorem execFetchIsRsNew : Obligations.ExecFetchIsRsNew := by
  unfold Obligations.ExecFetchIsRsNew
  intro s h hv hmin hmax hvalid
  rw [exec_execute_of_valid hv hmin hmax hvalid]
  have htag := h.requestTag hv
  exact ⟨fun e he => executeFetch_eq_rsNew htag (he.trans (valuesOfKind_zero e).symm),
    fun r hr => executeFetch_eq_rsNew htag (hr.trans (valuesOfKind_one r).symm),
    fun hother kind p h0 h1 => executeFetch_eq_rsNew htag (hother.trans (valuesOfKind_other h0 h1 p).symm)⟩

/-- Settles O56: 0 and 2001 lie outside the range, and the other two clauses are branches of `EXEC`. -/
theorem execExceptionOutcomes : Obligations.ExecExceptionOutcomes := by
  unfold Obligations.ExecExceptionOutcomes
  refine ⟨fun fc a c s t hfc hc h => ?_, fun s hv hmin hmax hvalid => ?_, fun s hv hcount => ?_⟩
  · rw [exec_rqNew, if_pos hfc] at h
    cases h
    have hcount : c.toNat < 1 ∨ 2000 < c.toNat := by
      rcases hc with rfl | rfl
      · exact .inl (by decide)
      · exact .inr (by decide)
    exact ⟨_, exec_execute_of_count_out_of_range rfl hcount, ⟨[], rfl⟩, rfl, rfl, rfl, rfl⟩
  · exact ⟨_, exec_execute_of_not_valid hv hmin hmax hvalid, [], rfl⟩
  · exact ⟨_, exec_execute_of_count_out_of_range hv hcount, [], rfl⟩

end Sys2Proof.Machine
end

section
/-! PROOFS. The step (spec/30_encoding.md R70 to R77): one equation for each thing the decoder can find, and what a
step consumes (10_state.md R23). -/

namespace Sys2Proof

/-- Operand bytes are complete or not, but never an illegal opcode (R74). -/
theorem decodeOperands_ne_illegal (o : Opcode) (bs : List Byte) (b : Byte) : decodeOperands o bs ≠ .illegal b := by
  have hpayload (n : Nat) (mk : List Byte → Instr) (bs : List Byte) : decodePayload n mk bs ≠ .illegal b := by
    unfold decodePayload; split <;> simp
  cases o with
  | pack | unpack | rqDec | rsSetBits | rsSetRaw | rsDec =>
    simp only [decodeOperands, decodeLength]; split <;> simp [hpayload]
  | rsNew => simp only [decodeOperands, decodeConstruct]; split <;> simp [hpayload]
  | rqNew => simp only [decodeOperands, decodeRequest]; split <;> simp
  | rsSetBit => simp only [decodeOperands, decodeIndexValue]; split <;> simp
  | rsRstBit | rsGetBit => simp only [decodeOperands, decodeIndex]; split <;> simp
  | rsClr | rdReg => simp only [decodeOperands, decodeByte]; split <;> simp
  | rqEnc | rsGetBits | rsGetRaw | rsGetBc | rsEnc | execute => simp [decodeOperands]

/-- The decoder finds an illegal opcode exactly where the first byte is none of the map's (R74). -/
theorem decode_eq_illegal_iff (bs : List Byte) (b : Byte) :
    decode bs = .illegal b ↔ ∃ tail, bs = b :: tail ∧ Opcode.ofByte b = none := by
  cases bs with
  | nil => simp [decode]
  | cons head tail =>
    cases ho : Opcode.ofByte head with
    | none =>
      rw [decode_cons_of_ofByte_eq_none ho]
      constructor
      · rintro ⟨⟩; exact ⟨tail, rfl, ho⟩
      · rintro ⟨_, ⟨⟩, _⟩; rfl
    | some o =>
      rw [decode_cons_of_ofByte ho]
      constructor
      · intro h; exact absurd h (decodeOperands_ne_illegal o tail b)
      · rintro ⟨_, ⟨⟩, hnone⟩; rw [ho] at hnone; cases hnone

/-- The nineteen bytes of the map (R73). -/
theorem opcodeRows_codes : opcodeRows.map Opcode.code =
    [0x10, 0x11, 0x20, 0x21, 0x22, 0x30, 0x31, 0x32, 0x33, 0x34, 0x35, 0x36, 0x37, 0x38, 0x39, 0x3A, 0x3B, 0x40,
      0x50] :=
  rfl

/-- A byte is illegal where no row of the map has it (R73, R74). -/
theorem ofByte_eq_none_iff (b : Byte) : Opcode.ofByte b = none ↔ b ∉ opcodeRows.map Opcode.code := by
  simp only [Opcode.ofByte, List.find?_eq_none, beq_iff_eq, List.mem_map, not_exists, not_and]

/-- The legal bytes, in their numbers' order, are the map's nineteen codes (R73). -/
theorem legalBytes_perm_codes :
    ((List.range 256).filter fun n => (Opcode.ofByte (BitVec.ofNat 8 n)).isSome).Perm
      (opcodeRows.map fun o => o.code.toNat) := by
  rw [List.perm_ext_iff_of_nodup (List.nodup_range.filter _) (by decide)]
  intro n
  rw [List.mem_filter, List.mem_range, List.mem_map]
  constructor
  · rintro ⟨hn, hsome⟩
    obtain ⟨o, ho⟩ := Option.isSome_iff_exists.mp hsome
    refine ⟨o, by cases o <;> decide, ?_⟩
    rw [code_of_ofByte _ o ho, BitVec.toNat_ofNat, Nat.mod_eq_of_lt hn]
  · rintro ⟨o, -, rfl⟩
    exact ⟨o.code.isLt, by simp⟩

/-- The other 237 are illegal (R74). -/
theorem illegalBytes_length :
    ((List.range 256).filter fun n => (Opcode.ofByte (BitVec.ofNat 8 n)).isNone).length = 237 := by
  have hlegal : ((List.range 256).filter fun n => (Opcode.ofByte (BitVec.ofNat 8 n)).isSome).length = 19 := by
    rw [legalBytes_perm_codes.length_eq]; rfl
  have hall := List.length_eq_length_filter_add (l := List.range 256)
    fun n => (Opcode.ofByte (BitVec.ofNat 8 n)).isSome
  simp only [Option.not_isSome, List.length_range, hlegal] at hall
  omega

end Sys2Proof

namespace Sys2Proof.Machine

theorem step_of_halted {s : State} (h : s.halted = true) : step s = .fault .halted := by simp [step, h]

theorem step_of_command {s : State} {i : Instr} {rest : List Byte} (hrun : s.halted = false)
    (h : decode s.cmd = .command i rest) : step s = exec i (advance i rest s) := by
  simp [step, hrun, h]

theorem step_of_incomplete {s : State} (hrun : s.halted = false) (h : decode s.cmd = .incomplete) :
    step s = .fault (holdFault s) := by
  simp [step, hrun, h]

theorem step_of_illegal {s : State} {b : Byte} (hrun : s.halted = false) (h : decode s.cmd = .illegal b) :
    step s = .next (takeIllegal s) := by
  simp [step, hrun, h]

/-- What the fault of an illegal opcode leaves (R74, R178). -/
theorem takeIllegal_of_running {s : State} (hrun : s.halted = false) : takeIllegal s =
    { s with err := s.err ||| 0x80, halted := true, res := s.res ++ [⟨.fault .illCmd, []⟩] } := by
  rw [takeIllegal, takeFault, hrun]; rfl

/-- Settles O7: moving past the command is its length added to `pc`. -/
theorem stepRunsTheDecodedCommand : Obligations.StepRunsTheDecodedCommand := by
  unfold Obligations.StepRunsTheDecodedCommand
  exact fun s i rest => step_of_command

/-- Settles O8: the encoding decodes to its command, whose length is the encoding's. -/
theorem stepRunsTheEncodedCommand : Obligations.StepRunsTheEncodedCommand := by
  unfold Obligations.StepRunsTheEncodedCommand
  intro s i rest hrun hwf hcmd
  rw [encode_length]
  exact step_of_command hrun (hcmd ▸ decode_encode_append i rest hwf)

/-- Settles O9: a halted block does not look at its stream, and an empty stream decodes to no command. -/
theorem blockHoldsWithoutAWholeCommand : Obligations.BlockHoldsWithoutAWholeCommand := by
  unfold Obligations.BlockHoldsWithoutAWholeCommand
  refine ⟨fun s bs h => ⟨step_of_halted h, step_of_halted h, hostReset_halted s⟩, fun s hrun hcmd => ?_,
    fun s hrun hcmd hdec => ?_⟩
  · rw [step_of_incomplete hrun (hcmd ▸ rfl), holdFault, if_pos (by simp [hcmd])]
  · rw [step_of_incomplete hrun hdec, holdFault, if_neg (by simp [hcmd])]

/-- Settles O5: the map's nineteen codes are the bytes listed, and the fault of any other halts. -/
theorem illegalOpcodeHaltsTheBlock : Obligations.IllegalOpcodeHaltsTheBlock := by
  unfold Obligations.IllegalOpcodeHaltsTheBlock
  refine ⟨fun b rest => ?_, illegalBytes_length, fun s b hrun hdec => ?_⟩
  · rw [decode_eq_illegal_iff, ← opcodeRows_codes, ← ofByte_eq_none_iff]
    simp
  · rw [step_of_illegal hrun hdec, takeIllegal_of_running hrun]
    exact ⟨rfl, by rintro t ⟨⟩; exact step_of_halted rfl⟩

/-- What a step leaves of the stream and of `pc` (R23, R74): it has consumed `n` bytes. -/
theorem step_consumes {s t : State} (h : step s = .next t) :
    ∃ consumed, s.cmd = consumed ++ t.cmd ∧ t.pc = s.pc + consumed.length := by
  obtain ⟨-, ⟨i, rest, hdec, hexec⟩ | ⟨-, rfl⟩⟩ := step_cases s t h
  · obtain ⟨hpc, hcmd, -, -⟩ := (exec_commandWrites hexec).sequencing
    obtain ⟨-, hbytes⟩ := of_decode_eq_command hdec
    exact ⟨encode i, by rw [hcmd]; exact hbytes, by rw [hpc, encode_length]; rfl⟩
  · exact ⟨[], rfl, rfl⟩

/-- Settles O10: the bytes consumed stand at the head of the stream and are as many as what `pc` gains. -/
theorem pcCountsConsumedBytes : Obligations.PcCountsConsumedBytes := by
  unfold Obligations.PcCountsConsumedBytes
  intro s t h
  obtain ⟨consumed, hcmd, hpc⟩ := step_consumes h
  have hlen : s.cmd.length = consumed.length + t.cmd.length := by rw [hcmd, List.length_append]
  refine ⟨by omega, by omega, ?_, fun stream hstream => and_congr_left fun _ => ?_⟩
  · rw [hpc, Nat.add_sub_cancel_left, hcmd, List.drop_left]
  · rw [← List.length_eq_zero_iff]; omega

end Sys2Proof.Machine
end

section
/-! PROOFS. Two runs of one command (spec/10_state.md R29, spec/20_memory.md R58): from two states that agree on what
commands read and stand in a relation that every operation on states keeps, the command leads to states in that
relation. -/

namespace Sys2Proof.Machine

/-- Two states agree on everything a command reads, the registers of `RDREG` apart. -/
structure AgreeOnReads (s s' : State) : Prop where
  rqV : s'.rqV = s.rqV
  rqFc : s'.rqFc = s.rqFc
  rqAddr : s'.rqAddr = s.rqAddr
  rqCount : s'.rqCount = s.rqCount
  rsV : s'.rsV = s.rsV
  cfg : s'.cfg = s.cfg
  bits : bitsView s' = bitsView s
  raw : rawView s' = rawView s
  count : byteCount s' = byteCount s
  validate : validateAnswer s' = validateAnswer s
  values : valuesAnswer (askValidate s') = valuesAnswer (askValidate s)

/-- A relation between states that every operation a command is made of keeps. -/
structure KeptByOperations (R : State → State → Prop) : Prop where
  emit : ∀ {s s'} r, R s s' → R (emit r s) (emit r s')
  takeFault : ∀ {s s'} c, R s s' → R (takeFault c s) (takeFault c s')
  openRequest : ∀ {s s'} fc a c, R s s' → R (openRequest fc a c s) (openRequest fc a c s')
  setRequestFields : ∀ {s s'} a c, R s s' → R (setRequestFields a c s) (setRequestFields a c s')
  openResponse : ∀ {s s'} fc, R s s' → R (openResponse fc s) (openResponse fc s')
  setBits : ∀ {s s'} b, R s s' → R (setBits b s) (setBits b s')
  setRaw : ∀ {s s'} r, R s s' → R (setRaw r s) (setRaw r s')
  holdBits : ∀ {s s'}, R s s' → R (holdBits s) (holdBits s')
  holdRaw : ∀ {s s'}, R s s' → R (holdRaw s) (holdRaw s')
  holdByteCount : ∀ {s s'}, R s s' → R (holdByteCount s) (holdByteCount s')
  askValidate : ∀ {s s'}, R s s' → R (askValidate s) (askValidate s')
  askGetValues : ∀ {s s'}, R s s' → R (askGetValues s) (askGetValues s')

/-- Where two states pass one test together, each branch may be related by itself. -/
theorem ite_related {R : State → State → Prop} {P : Prop} [Decidable P] {a b a' b' : State} (ha : R a a')
    (hb : R b b') : R (if P then a else b) (if P then a' else b') := by
  split
  · exact ha
  · exact hb

section Congruence
variable {R : State → State → Prop} (hR : KeptByOperations R) {s s' : State}
include hR

/-- Constructing from the same values in the same configuration keeps the relation (R122). -/
theorem related_finish_construct (fc : Byte) (v : Values) (h : R s s') (hcfg : s'.cfg = s.cfg) :
    R (finish s (construct fc v s)) (finish s' (construct fc v s')) := by
  cases v with
  | seq e =>
    rw [finish_construct_seq, finish_construct_seq, hcfg]
    exact ite_related (hR.emit _ (hR.setBits _ (hR.openResponse fc h))) (hR.takeFault _ h)
  | blob r =>
    rw [finish_construct_blob, finish_construct_blob, hcfg]
    exact ite_related (hR.emit _ (hR.setRaw r (hR.openResponse fc h))) (hR.takeFault _ h)
  | other => exact hR.takeFault _ h

/-- Writing one bit of the same bits view keeps the relation (R128). -/
theorem related_exec_rsSetBit (n : Half) (v : Byte) (hread : AgreeOnReads s s') (h : R s s') :
    ∃ t t', exec (.rsSetBit n v) s = .next t ∧ exec (.rsSetBit n v) s' = .next t' ∧ R t t' := by
  refine ⟨_, _, exec_rsSetBit n v s, exec_rsSetBit n v s', ?_⟩
  rw [hread.rsV, hread.bits]
  exact ite_related (ite_related (hR.emit _ (hR.setBits _ h)) (hR.takeFault _ h)) (hR.takeFault _ h)

/-- Every command keeps the relation, `RDREG` where the two states agree on the register it reads. -/
theorem related_exec (i : Instr) (hread : AgreeOnReads s s') (h : R s s')
    (hreg : ∀ reg r, i = .rdReg reg → regOfByte reg = some r → s'.readReg r = s.readReg r) :
    ∃ t t', exec i s = .next t ∧ exec i s' = .next t' ∧ R t t' := by
  have hfault (c : Cause) : R (takeFault c s) (takeFault c s') := hR.takeFault c h
  cases i with
  | pack e =>
    refine ⟨_, _, exec_pack e s, exec_pack e s', ?_⟩
    rw [hread.cfg]
    exact ite_related (hR.emit _ h) (hfault _)
  | unpack r =>
    refine ⟨_, _, exec_unpack r s, exec_unpack r s', ?_⟩
    rw [hread.cfg]
    exact ite_related (hR.emit _ h) (hfault _)
  | rqNew fc a c =>
    exact ⟨_, _, exec_rqNew fc a c s, exec_rqNew fc a c s',
      ite_related (hR.emit _ (hR.openRequest fc a c h)) (hfault _)⟩
  | rqEnc =>
    refine ⟨_, _, exec_rqEnc s, exec_rqEnc s', ?_⟩
    rw [hread.rqV, hread.rqAddr, hread.rqCount]
    exact ite_related (hR.emit _ h) (hfault _)
  | rqDec d =>
    refine ⟨_, _, exec_rqDec d s, exec_rqDec d s', ?_⟩
    rw [hread.rqV]
    refine ite_related ?_ (hfault _)
    cases requestFields d with
    | none => exact hfault _
    | some f => exact hR.emit _ (hR.setRequestFields f.1 f.2 h)
  | rsClr fc =>
    exact ⟨_, _, exec_rsClr fc s, exec_rsClr fc s', ite_related (hR.emit _ (hR.openResponse fc h)) (hfault _)⟩
  | rsNew fc kind p =>
    exact ⟨_, _, exec_rsNew fc kind p s, exec_rsNew fc kind p s',
      ite_related (related_finish_construct hR fc _ h hread.cfg) (hfault _)⟩
  | rsGetBits =>
    refine ⟨_, _, exec_rsGetBits s, exec_rsGetBits s', ?_⟩
    rw [hread.rsV, hread.bits]
    exact ite_related (hR.emit _ (hR.holdBits h)) (hfault _)
  | rsGetRaw =>
    refine ⟨_, _, exec_rsGetRaw s, exec_rsGetRaw s', ?_⟩
    rw [hread.rsV, hread.raw]
    exact ite_related (hR.emit _ (hR.holdRaw h)) (hfault _)
  | rsGetBc =>
    refine ⟨_, _, exec_rsGetBc s, exec_rsGetBc s', ?_⟩
    rw [hread.rsV, hread.count]
    exact ite_related (hR.emit _ (hR.holdByteCount h)) (hfault _)
  | rsSetBits e =>
    refine ⟨_, _, exec_rsSetBits e s, exec_rsSetBits e s', ?_⟩
    rw [hread.cfg, hread.rsV]
    exact ite_related (ite_related (hR.emit _ (hR.setBits _ h)) (hfault _)) (hfault _)
  | rsSetRaw r =>
    refine ⟨_, _, exec_rsSetRaw r s, exec_rsSetRaw r s', ?_⟩
    rw [hread.cfg, hread.rsV]
    exact ite_related (ite_related (hR.emit _ (hR.setRaw r h)) (hfault _)) (hfault _)
  | rsSetBit n v => exact related_exec_rsSetBit hR n v hread h
  | rsRstBit n => exact related_exec_rsSetBit hR n 0 hread h
  | rsGetBit n =>
    refine ⟨_, _, exec_rsGetBit n s, exec_rsGetBit n s', ?_⟩
    simp only [hread.rsV, hread.bits]
    split_ifs
    · exact hR.emit _ (hR.holdBits h)
    · exact hfault _
    · exact hfault _
  | rsEnc =>
    refine ⟨_, _, exec_rsEnc s, exec_rsEnc s', ?_⟩
    rw [hread.rsV, hread.count, hread.raw]
    exact ite_related (ite_related (hR.emit _ (hR.holdRaw (hR.holdByteCount h))) (hfault _)) (hfault _)
  | rsDec d =>
    cases d with
    | nil =>
      refine ⟨_, _, exec_rsDec_nil s, exec_rsDec_nil s', ?_⟩
      rw [hread.rsV]
      exact ite_related (hfault _) (hfault _)
    | cons declared rest =>
      refine ⟨_, _, exec_rsDec_cons declared rest s, exec_rsDec_cons declared rest s', ?_⟩
      rw [hread.cfg, hread.rsV]
      exact ite_related (ite_related (hR.emit _ (hR.setRaw rest h)) (hfault _)) (hfault _)
  | execute =>
    refine ⟨_, _, exec_execute s, exec_execute s', ?_⟩
    rw [hread.rqV, hread.rqCount, hread.validate, executeFetch, executeFetch, hread.rqFc, hread.values]
    have hasked := hR.askValidate h
    have hfetch := related_finish_construct hR s.rqFc (valuesAnswer (askValidate s)) (hR.askGetValues hasked) hread.cfg
    exact ite_related (ite_related (ite_related hfetch (hR.emit _ hasked)) (hR.emit _ h)) (hfault _)
  | rdReg reg =>
    refine ⟨_, _, exec_rdReg reg s, exec_rdReg reg s', ?_⟩
    cases hr : regOfByte reg with
    | none => exact hfault _
    | some r =>
      rw [Option.elim_some, Option.elim_some, hreg reg r rfl hr]
      exact hR.emit _ h

end Congruence

/-- Materialising the count looks at no byte of the stream (R120). -/
theorem holdByteCount_hostWrite (bs : List Byte) (s : State) :
    holdByteCount (hostWrite bs s) = hostWrite bs (holdByteCount s) := by
  rcases holdByteCount_cases s with ⟨n, hbc, -, h⟩ | ⟨hbc, -, h⟩
  · rw [h, holdByteCount, hostWrite_bc, hbc]
  · rw [h, holdByteCount, hostWrite_bc, hbc]; rfl

/-- Bytes written to the stream stay there through every operation (R58). -/
theorem keptByOperations_hostWrite (bs : List Byte) : KeptByOperations fun s s' => s' = hostWrite bs s where
  emit := by rintro s _ r rfl; rfl
  takeFault := by rintro s _ c rfl; rfl
  openRequest := by rintro s _ fc a c rfl; rfl
  setRequestFields := by rintro s _ a c rfl; rfl
  openResponse := by rintro s _ fc rfl; rfl
  setBits := by rintro s _ b rfl; rfl
  setRaw := by rintro s _ r rfl; rfl
  holdBits := by rintro s _ rfl; rfl
  holdRaw := by rintro s _ rfl; rfl
  holdByteCount := by rintro s _ rfl; exact holdByteCount_hostWrite bs s
  askValidate := by rintro s _ rfl; rfl
  askGetValues := by rintro s _ rfl; rfl

theorem agreeOnReads_hostWrite (bs : List Byte) (s : State) : AgreeOnReads s (hostWrite bs s) :=
  ⟨rfl, rfl, rfl, rfl, rfl, rfl, rfl, rfl, rfl, rfl, rfl⟩

/-- No command reads the stream (R58, R70). -/
theorem exec_hostWrite {i : Instr} {s t : State} (bs : List Byte) (h : exec i s = .next t) :
    exec i (hostWrite bs s) = .next (hostWrite bs t) := by
  obtain ⟨_, _, ht, ht', rfl⟩ :=
    related_exec (keptByOperations_hostWrite bs) i (agreeOnReads_hostWrite bs s) rfl fun _ _ _ _ => rfl
  cases h.symm.trans ht
  exact ht'

/-- Settles O11: later bytes stay behind the command that is decoded, and no command reads them. -/
theorem laterBytesDoNotChangeAStep : Obligations.LaterBytesDoNotChangeAStep := by
  unfold Obligations.LaterBytesDoNotChangeAStep
  intro s t bs h
  obtain ⟨hrun, ⟨i, rest, hdec, hexec⟩ | ⟨⟨b, hdec⟩, rfl⟩⟩ := step_cases s t h
  · obtain ⟨hwf, hbytes⟩ := of_decode_eq_command hdec
    have hdec' : decode (hostWrite bs s).cmd = .command i (rest ++ bs) := by
      rw [hostWrite_cmd, hbytes, List.append_assoc, decode_encode_append i _ hwf]
    rw [step_of_command (s := hostWrite bs s) hrun hdec']
    exact exec_hostWrite bs hexec
  · obtain ⟨tail, hbytes, hnone⟩ := (decode_eq_illegal_iff _ b).mp hdec
    have hdec' : decode (hostWrite bs s).cmd = .illegal b :=
      (decode_eq_illegal_iff _ b).mpr ⟨tail ++ bs, by rw [hostWrite_cmd, hbytes]; rfl, hnone⟩
    rw [step_of_illegal (s := hostWrite bs s) hrun hdec']; rfl

end Sys2Proof.Machine
end

section
/-! PROOFS. The two views (spec/20_memory.md R52; 42_response_frame.md R120) and why caching is invisible (10_state.md
R29, 70_reset_and_hazards.md R210): materialising a view or the count changes the value of neither view. -/

namespace Sys2Proof.Machine

@[simp] theorem pack_nil : pack [] = [] := rfl
@[simp] theorem unpack_nil : unpack [] = [] := rfl

@[simp] theorem bitsView_holdBits (s : State) : bitsView (holdBits s) = bitsView s := rfl

@[simp] theorem rawView_holdBits (s : State) : rawView (holdBits s) = rawView s := by
  cases hraw : s.raw with
  | some r => simp [rawView, hraw]
  | none => cases hbits : s.bits <;> simp [rawView, bitsView, hraw, hbits]

@[simp] theorem bitsView_holdRaw (s : State) : bitsView (holdRaw s) = bitsView s := by
  cases hbits : s.bits with
  | some b => simp [bitsView, hbits]
  | none => cases hraw : s.raw <;> simp [bitsView, rawView, hraw, hbits]

@[simp] theorem bitsView_holdByteCount (s : State) : bitsView (holdByteCount s) = bitsView s := by
  rcases holdByteCount_cases s with ⟨n, -, -, h⟩ | ⟨-, -, h⟩
  · rw [h]
  · rw [h]; exact bitsView_holdRaw s

/-- A held bits view needs no materialising (R120). -/
theorem holdBits_of_bits {s : State} {b : List Bool} (h : s.bits = some b) : holdBits s = s := by
  rw [holdBits, bitsView_of_bits s b h, ← h]

/-- A cached count needs no materialising (R120). -/
theorem holdByteCount_of_bc {s : State} {n : Nat} (h : s.bc = some n) : holdByteCount s = s := by
  simp [holdByteCount, h]

/-- Settles O31: each helper's equation in each case of what is held. -/
theorem helpersMaterialiseTheViews : Obligations.HelpersMaterialiseTheViews := by
  unfold Obligations.HelpersMaterialiseTheViews
  refine fun s => ⟨fun b h => ⟨bitsView_of_bits s b h, holdBits_of_bits h⟩, fun r hbits hraw => ?_,
    fun hbits hraw => ?_, fun r h => ⟨rawView_of_raw s r h, holdRaw_of_raw h⟩, fun b hraw hbits => ?_,
    fun hraw hbits => ?_, fun n h => ⟨?_, holdByteCount_of_bc h⟩, fun h => ?_⟩
  · simp [holdBits, bitsView, hbits, hraw]
  · simp [holdBits, bitsView, hbits, hraw]
  · simp [holdRaw, rawView, hbits, hraw]
  · simp [holdRaw, rawView, hbits, hraw]
  · simp [byteCount, h]
  · simp [byteCount, holdByteCount, holdRaw, h]

/-- The bits view fits its buffer, held or computed from the raw view (R28 I4, R120). -/
theorem bitsView_length_le {s : State} (h : s.Inv) : (bitsView s).length ≤ 8 * s.cfg.capBytes := by
  cases hbits : s.bits with
  | some b => rw [bitsView_of_bits s b hbits]; exact h.bitsFit b hbits
  | none =>
    cases hraw : s.raw with
    | some r => have := h.rawFits r hraw; simp [bitsView, hbits, hraw]; omega
    | none => simp [bitsView, hbits, hraw]

/-- The raw view fits its buffer, held or computed from the bits view (R28 I4, R120). -/
theorem rawView_length_le {s : State} (h : s.Inv) : (rawView s).length ≤ s.cfg.capBytes := by
  cases hraw : s.raw with
  | some r => rw [rawView_of_raw s r hraw]; exact h.rawFits r hraw
  | none =>
    cases hbits : s.bits with
    | some b => have := h.bitsFit b hbits; simp [rawView, hbits, hraw]; omega
    | none => simp [rawView, hbits, hraw]

/-- Settles O32: a held view fits by I4, and a computed one has an eighth or eight times the other's length. -/
theorem materialisedViewsFitTheBuffers : Obligations.MaterialisedViewsFitTheBuffers := by
  unfold Obligations.MaterialisedViewsFitTheBuffers
  exact fun s h => ⟨bitsView_length_le h, rawView_length_le h, byteCount_of_inv h⟩

/-- Settles O48: by I3 the raw view is the packed form, whose bits are the sequence's. -/
theorem bothViewsShowTheSameBit : Obligations.BothViewsShowTheSameBit := by
  unfold Obligations.BothViewsShowTheSameBit
  intro s b r i h hbits hraw _
  rw [h.viewsAgree b r hbits hraw]
  exact ⟨pack_length b, by rw [← unpack_getD_div_mod, unpack_pack_getD]⟩

/-- A query tells of the request and of nothing else (R86). -/
theorem dsQuery_of_sameRequest {s s' : State} (h : SameRequest s s') (kind : DsKind) :
    dsQuery kind s' = dsQuery kind s := by
  obtain ⟨-, hfc, haddr, hcount⟩ := h
  simp only [dsQuery, hfc, haddr, hcount]

/-- States of one content stay so through every operation: each writes the same into both, and none changes the value
of a view by holding it. -/
theorem keptByOperations_sameContent : KeptByOperations SameContent where
  emit _ h := { h with records := by simp [h.records] }
  takeFault c h :=
    { h with
      err := by simp [h.err]
      sequencing := by
        obtain ⟨hpc, hcmd, hhalted, hcfg⟩ := h.sequencing
        exact ⟨hpc, hcmd, by simp [hhalted], hcfg⟩
      records := by simp [h.records] }
  openRequest _ _ _ h := { h with request := ⟨rfl, rfl, rfl, rfl⟩ }
  setRequestFields _ _ h := { h with request := ⟨h.request.1, h.request.2.1, rfl, rfl⟩ }
  openResponse _ h := { h with present := ⟨rfl, rfl⟩, bits := rfl, raw := rfl }
  setBits _ h := { h with bits := rfl, raw := rfl }
  setRaw _ h := { h with bits := rfl, raw := rfl }
  holdBits h := { h with raw := by simp [h.raw] }
  holdRaw h := { h with bits := by simp [h.bits], raw := by simp [h.raw] }
  holdByteCount h :=
    { request := by simpa [SameRequest] using h.request
      present := by simpa using h.present
      bits := by simpa using h.bits
      raw := by simpa using h.raw
      err := by simpa using h.err
      sequencing := by simpa [SameSequencing] using h.sequencing
      records := by simpa using h.records
      ds := by simpa [SameDs] using h.ds }
  askValidate {s s'} h :=
    { h with
      ds := by
        obtain ⟨hvalidate, hvalues, hqueries, htick⟩ := h.ds
        refine ⟨?_, hvalues, ?_, ?_⟩
        · rw [askValidate_dsValidateIn, askValidate_dsValidateIn, hvalidate]
        · rw [askValidate_dsQueries, askValidate_dsQueries, hqueries, dsQuery_of_sameRequest h.request]
        · rw [askValidate_dsTick, askValidate_dsTick, htick] }
  askGetValues {s s'} h :=
    { h with
      ds := by
        obtain ⟨hvalidate, hvalues, hqueries, htick⟩ := h.ds
        refine ⟨hvalidate, ?_, ?_, ?_⟩
        · rw [askGetValues_dsValuesIn, askGetValues_dsValuesIn, hvalues]
        · rw [askGetValues_dsQueries, askGetValues_dsQueries, hqueries, dsQuery_of_sameRequest h.request]
        · rw [askGetValues_dsTick, askGetValues_dsTick, htick] }

/-- Under the invariants states of one content agree on all that a command reads; the count is the raw view's length in
both (R28, R29). -/
theorem SameContent.agreeOnReads {s s' : State} (h : SameContent s s') (hinv : s.Inv) (hinv' : s'.Inv) :
    AgreeOnReads s s' := by
  obtain ⟨hrqV, hrqFc, hrqAddr, hrqCount⟩ := h.request
  obtain ⟨hvalidate, hvalues, -, htick⟩ := h.ds
  exact {
    rqV := hrqV
    rqFc := hrqFc
    rqAddr := hrqAddr
    rqCount := hrqCount
    rsV := h.present.1
    cfg := h.sequencing.2.2.2
    bits := h.bits
    raw := h.raw
    count := by rw [byteCount_of_inv hinv, byteCount_of_inv hinv', h.raw]
    validate := by simp only [validateAnswer, hvalidate, htick, hrqFc, hrqAddr, hrqCount]
    values := by
      simp only [valuesAnswer, askValidate_dsValuesIn, askValidate_dsTick, askValidate_rqFc, askValidate_rqAddr,
        askValidate_rqCount, hvalues, htick, hrqFc, hrqAddr, hrqCount] }

/-- The registers of the flags, the lengths and the count are those numbered 3 to 6 (R33). -/
theorem register_number_of_cached {reg : Byte} {r : Reg} (h : regOfByte reg = some r)
    (hr : r ∈ [Reg.rsCtl, .rsBlen, .rsRlen, .rsBc]) : 3 ≤ reg.toNat ∧ reg.toNat ≤ 6 := by
  unfold regOfByte at h
  split at h <;> rename_i hnumber <;> cases h <;> simp [hnumber] at hr ⊢

/-- States of one content show the same in every other register (R210). -/
theorem SameContent.readReg {s s' : State} (h : SameContent s s') {r : Reg}
    (hr : r ∉ [Reg.rsCtl, .rsBlen, .rsRlen, .rsBc]) : s'.readReg r = s.readReg r := by
  obtain ⟨hrqV, hrqFc, hrqAddr, hrqCount⟩ := h.request
  have hcfg : s'.cfg = s.cfg := h.sequencing.2.2.2
  cases r with
  | rsCtl | rsBlen | rsRlen | rsBc => simp at hr
  | rqCtl => simp only [State.readReg, State.rqCtl, hrqV, hrqFc]
  | rqAddr => simp only [State.readReg, hrqV, hrqAddr]
  | rqCount => simp only [State.readReg, hrqV, hrqCount]
  | errStat => simp only [State.readReg, h.err]
  | cfgCap | cfgBound | cfgRqLen | cfgBcPos => simp only [State.readReg, hcfg]

/-- Settles O60: same content is kept by every operation, and only the excluded registers tell what is held. -/
theorem cachingIsInvisible : Obligations.CachingIsInvisible := by
  unfold Obligations.CachingIsInvisible
  intro i s s' t hinv hinv' h hreg hexec
  obtain ⟨u, t', hu, ht', hrel⟩ := related_exec keptByOperations_sameContent i (h.agreeOnReads hinv hinv') h
    fun reg r hi hr => h.readReg fun hmem => by
      have := register_number_of_cached hr hmem
      have := hreg reg hi
      omega
  cases hexec.symm.trans hu
  exact ⟨t', ht', hrel⟩

end Sys2Proof.Machine
end

section
/-! PROOFS. The invariants (spec/10_state.md R28, 42_response_frame.md R134): reset meets them, every operation keeps
them where its operands fit, and each command tests just that before it applies the operation. -/

namespace Sys2Proof.Machine

theorem wellFormed_of_empty (st : Status) : Record.WellFormed ⟨st, []⟩ := ⟨Nat.zero_le _, fun _ => rfl⟩

theorem wellFormed_of_ok {p : List Byte} (h : p.length ≤ 65535) : Record.WellFormed ⟨.ok, p⟩ :=
  ⟨h, fun hne => absurd rfl hne⟩

/-- With no frame made, no fault taken and no record emitted, only the capacity is left to ask for (R38). -/
theorem resetWith_inv {cfg : Config} (h : cfg.wf) : (State.resetWith cfg).Inv where
  capacity := h
  noResponse _ := ⟨rfl, rfl, rfl⟩
  countCached := by simp
  viewsAgree := by simp
  bitsFit := by simp
  rawFits := by simp
  requestTag := by simp
  responseTag := by simp
  haltedBit := by simp
  records := by simp

theorem reference_wf : Config.reference.wf := ⟨by decide, by decide⟩

/-- Settles O58: after reset nothing is held, and no bit of `ERR` is set. -/
theorem resetMeetsTheInvariants : Obligations.ResetMeetsTheInvariants := by
  unfold Obligations.ResetMeetsTheInvariants
  exact ⟨fun _ => resetWith_inv, resetWith_inv reference_wf⟩

/-- Under I3 the raw view is the packed form of the bits view, held or not (R28). -/
theorem pack_bitsView {s : State} (h : s.Inv) : pack (bitsView s) = rawView s := by
  cases hbits : s.bits with
  | some b => rw [bitsView_of_bits s b hbits, rawView_of_bits h hbits]
  | none => cases hraw : s.raw <;> simp [bitsView, rawView, hbits, hraw, pack_unpack]

/-- Of a test's two branches the first need meet the invariants only where the test is passed. -/
theorem ite_inv {P : Prop} [Decidable P] {a b : State} (ha : P → a.Inv) (hb : b.Inv) : (if P then a else b).Inv := by
  split
  case isTrue hP => exact ha hP
  case isFalse => exact hb

section Operations
variable {s : State} (h : s.Inv)
include h

theorem emit_inv {r : Record} (hr : r.WellFormed) : (emit r s).Inv :=
  { h with
    records := by
      intro q hq
      rw [emit_res, List.mem_append, List.mem_singleton] at hq
      rcases hq with hq | rfl
      · exact h.records q hq
      · exact hr }

theorem takeFault_inv (c : Cause) : (takeFault c s).Inv :=
  { emit_inv h (wellFormed_of_empty (.fault c)) with
    haltedBit := by
      have hbit : c.halts = c.errBit.getLsbD 7 := by cases c <;> decide
      rw [takeFault_halted, takeFault_err, BitVec.getLsbD_or, h.haltedBit, hbit] }

theorem setBits_inv (hv : s.rsV = true) {b : List Bool} (hb : b.length ≤ 8 * s.cfg.capBytes) : (setBits b s).Inv :=
  { h with
    noResponse := by simp [hv]
    countCached := by simp
    viewsAgree := by simp
    bitsFit := by simpa using hb
    rawFits := by simp }

theorem setRaw_inv (hv : s.rsV = true) {r : List Byte} (hr : r.length ≤ s.cfg.capBytes) : (setRaw r s).Inv :=
  { h with
    noResponse := by simp [hv]
    countCached := by simp
    viewsAgree := by simp
    bitsFit := by simp
    rawFits := by simpa using hr }

theorem openResponse_inv {fc : Byte} (hfc : fc = 1 ∨ fc = 2) : (openResponse fc s).Inv :=
  { h with
    noResponse := by simp
    countCached := by simp
    viewsAgree := by simp
    bitsFit := by simp
    rawFits := by simp
    responseTag := fun _ => hfc }

theorem openRequest_inv {fc : Byte} (a c : Half) (hfc : fc = 1 ∨ fc = 2) : (openRequest fc a c s).Inv :=
  { h with requestTag := fun _ => hfc }

theorem setRequestFields_inv (a c : Half) : (setRequestFields a c s).Inv := { h with }

theorem holdBits_inv (hv : s.rsV = true) : (holdBits s).Inv :=
  { h with
    noResponse := by simp [hv]
    viewsAgree := by
      rintro b r hb hr
      cases hb
      rw [pack_bitsView h, rawView_of_raw s r hr]
    bitsFit := by simpa using bitsView_length_le h }

theorem holdRaw_inv (hv : s.rsV = true) : (holdRaw s).Inv :=
  { h with
    noResponse := by simp [hv]
    countCached := fun n hn => by
      obtain ⟨r, hr, hlen⟩ := h.countCached n hn
      exact ⟨r, by rw [holdRaw_raw, rawView_of_raw s r hr], hlen⟩
    viewsAgree := by
      rintro b r hb hr
      cases hr
      exact rawView_of_bits h hb
    rawFits := by simpa using rawView_length_le h }

theorem holdByteCount_inv (hv : s.rsV = true) : (holdByteCount s).Inv := by
  rw [holdByteCount_of_inv h]
  exact { holdRaw_inv h hv with
    noResponse := by simp [hv]
    countCached := by simp }

theorem askValidate_inv : (askValidate s).Inv := { h with }

theorem askGetValues_inv : (askGetValues s).Inv := { h with }

theorem advance_inv (i : Instr) (rest : List Byte) : (advance i rest s).Inv := { h with }

theorem hostWrite_inv (bs : List Byte) : (hostWrite bs s).Inv := { h with }

theorem hostDsValidate_inv (a : Byte) : (hostDsValidate a s).Inv := { h with }

theorem hostDsValues_inv (kind : Byte) (p : List Byte) : (hostDsValues kind p s).Inv := { h with }

/-- The records emitted before the reset event stay as they were (R38). -/
theorem hostReset_inv : (hostReset s).Inv := { resetWith_inv h.capacity with records := h.records }

/-- Constructing under a legal tag keeps the invariants: what does not fit is refused (R122). -/
theorem finish_construct_inv {fc : Byte} (hfc : fc = 1 ∨ fc = 2) (v : Values) :
    (finish s (construct fc v s)).Inv := by
  have hopen := openResponse_inv h hfc
  have hok := wellFormed_of_empty .ok
  cases v with
  | seq e =>
    rw [finish_construct_seq]
    exact ite_inv (fun hlen => emit_inv (setBits_inv hopen rfl (by simpa using hlen)) hok) (takeFault_inv h _)
  | blob r =>
    rw [finish_construct_blob]
    exact ite_inv (fun hlen => emit_inv (setRaw_inv hopen rfl hlen) hok) (takeFault_inv h _)
  | other => exact takeFault_inv h _

theorem exec_rsSetBit_inv {t : State} {n : Half} {v : Byte} (hexec : exec (.rsSetBit n v) s = .next t) : t.Inv := by
  rw [exec_rsSetBit] at hexec; cases hexec
  refine ite_inv (fun hv => ite_inv (fun _ => ?_) (takeFault_inv h _)) (takeFault_inv h _)
  exact emit_inv (setBits_inv h hv (by simpa using bitsView_length_le h)) (wellFormed_of_empty .ok)

/-- Every command keeps the invariants. -/
theorem exec_inv {i : Instr} {t : State} (hexec : exec i s = .next t) : t.Inv := by
  have hok := wellFormed_of_empty .ok
  have hfault := takeFault_inv h
  have hcap : s.cfg.capBytes ≤ 8191 := h.capacity.2
  have hbits := bitsView_length_le h
  have hraw := rawView_length_le h
  cases i with
  | pack e =>
    rw [exec_pack] at hexec; cases hexec
    exact ite_inv (fun hlen => emit_inv h (wellFormed_of_ok (by simp; omega))) (hfault _)
  | unpack r =>
    rw [exec_unpack] at hexec; cases hexec
    exact ite_inv (fun hlen => emit_inv h (wellFormed_of_ok (by simp; omega))) (hfault _)
  | rqNew fc a c =>
    rw [exec_rqNew] at hexec; cases hexec
    exact ite_inv (fun hfc => emit_inv (openRequest_inv h a c hfc) hok) (hfault _)
  | rqEnc =>
    rw [exec_rqEnc] at hexec; cases hexec
    exact ite_inv (fun _ => emit_inv h (wellFormed_of_ok (by simp [requestBody_length, Config.rqBodyLen]))) (hfault _)
  | rqDec d =>
    rw [exec_rqDec] at hexec; cases hexec
    refine ite_inv (fun _ => ?_) (hfault _)
    cases requestFields d with
    | none => exact hfault _
    | some f => exact emit_inv (setRequestFields_inv h f.1 f.2) hok
  | rsClr fc =>
    rw [exec_rsClr] at hexec; cases hexec
    exact ite_inv (fun hfc => emit_inv (openResponse_inv h hfc) hok) (hfault _)
  | rsNew fc kind p =>
    rw [exec_rsNew] at hexec; cases hexec
    exact ite_inv (fun hfc => finish_construct_inv h hfc _) (hfault _)
  | rsGetBits =>
    rw [exec_rsGetBits] at hexec; cases hexec
    exact ite_inv (fun hv => emit_inv (holdBits_inv h hv) (wellFormed_of_ok (by simp; omega))) (hfault _)
  | rsGetRaw =>
    rw [exec_rsGetRaw] at hexec; cases hexec
    exact ite_inv (fun hv => emit_inv (holdRaw_inv h hv) (wellFormed_of_ok (by omega))) (hfault _)
  | rsGetBc =>
    rw [exec_rsGetBc] at hexec; cases hexec
    exact ite_inv (fun hv => emit_inv (holdByteCount_inv h hv) (wellFormed_of_ok (by simp))) (hfault _)
  | rsSetBits e =>
    rw [exec_rsSetBits] at hexec; cases hexec
    exact ite_inv (fun hlen => ite_inv (fun hv => emit_inv (setBits_inv h hv (by simpa using hlen)) hok) (hfault _))
      (hfault _)
  | rsSetRaw r =>
    rw [exec_rsSetRaw] at hexec; cases hexec
    exact ite_inv (fun hlen => ite_inv (fun hv => emit_inv (setRaw_inv h hv hlen) hok) (hfault _)) (hfault _)
  | rsSetBit n v => exact exec_rsSetBit_inv h hexec
  | rsRstBit n => exact exec_rsSetBit_inv h ((exec_rsRstBit n s).symm.trans hexec)
  | rsGetBit n =>
    rw [exec_rsGetBit] at hexec; cases hexec
    split_ifs with hv
    · exact emit_inv (holdBits_inv h hv) (wellFormed_of_ok (by simp))
    · exact hfault _
    · exact hfault _
  | rsEnc =>
    rw [exec_rsEnc] at hexec; cases hexec
    refine ite_inv (fun hv => ite_inv (fun _ => ?_) (hfault _)) (hfault _)
    exact emit_inv (holdRaw_inv (holdByteCount_inv h hv) (by simpa using hv)) (wellFormed_of_ok (by simp; omega))
  | rsDec d =>
    cases d with
    | nil =>
      rw [exec_rsDec_nil] at hexec; cases hexec
      exact ite_inv (fun _ => hfault _) (hfault _)
    | cons declared rest =>
      rw [exec_rsDec_cons] at hexec; cases hexec
      refine ite_inv (fun hlen => ite_inv (fun hv => ?_) (hfault _)) (hfault _)
      have hrest : rest.length ≤ s.cfg.capBytes := by rw [List.length_cons] at hlen; omega
      exact emit_inv (setRaw_inv h hv hrest) (wellFormed_of_ok (by simp))
  | execute =>
    rw [exec_execute] at hexec; cases hexec
    have hasked := askValidate_inv h
    have hexc (o : ExcOutcome) := wellFormed_of_empty (.exc o)
    exact ite_inv (fun hv => ite_inv (fun _ => ite_inv
      (fun _ => finish_construct_inv (askGetValues_inv hasked) (h.requestTag hv) _) (emit_inv hasked (hexc _)))
      (emit_inv h (hexc _))) (hfault _)
  | rdReg reg =>
    rw [exec_rdReg] at hexec; cases hexec
    cases regOfByte reg with
    | none => exact hfault _
    | some r => exact emit_inv h (wellFormed_of_ok (by simp))

end Operations

/-- Settles O59: moving past the command and running it both keep the invariants, as does the fault of an illegal
opcode, and the environment touches no field they speak of. -/
theorem everyStepKeepsTheInvariants : Obligations.EveryStepKeepsTheInvariants := by
  unfold Obligations.EveryStepKeepsTheInvariants
  refine ⟨fun s t h hstep => ?_, fun s bs a k h =>
    ⟨hostWrite_inv h bs, hostReset_inv h, hostDsValidate_inv h a, hostDsValues_inv h k bs⟩⟩
  obtain ⟨-, ⟨i, rest, -, hexec⟩ | ⟨-, rfl⟩⟩ := step_cases s t hstep
  · exact exec_inv (advance_inv h i rest) hexec
  · exact takeFault_inv h .illCmd

end Sys2Proof.Machine
end

section
/-! PROOFS. A command's line of assembly (spec/30_encoding.md R84, R85) and the element bytes (R80). -/

namespace Sys2Proof.Machine

/-- The mnemonic's row is the opcode's own (R73, R84). -/
theorem find?_mnemonic (o : Opcode) :
    (opcodeRows.find? fun p => opcodeMnemonic p == opcodeMnemonic o) = some o := by
  cases o <;> rfl

theorem opcodeMnemonic_injective : Function.Injective opcodeMnemonic := fun o p h => by
  have ho := find?_mnemonic o
  rw [h, find?_mnemonic p] at ho
  exact (Option.some.inj ho).symm

/-- A field's number is read back into the field (R84). -/
@[simp] theorem asmField_toNat {w : Nat} (v : BitVec w) : asmField w v.toNat = some v := by
  simp [asmField, v.isLt]

/-- The payload operand of a construction names its kind and its bytes (R84). -/
@[simp] theorem asmKind_asmPayload (kind : Byte) (p : List Byte) : asmKind (asmPayload kind p) = some (kind, p) := by
  unfold asmPayload
  split_ifs with h0 h1
  · rw [eq_of_beq h0]; rfl
  · rw [eq_of_beq h1]; rfl
  · simp [asmKind]

/-- A command is read back from its line (R84). -/
theorem assemble_toAsm (i : Instr) : assemble (toAsm i) = some i := by
  cases i with
  | rqNew fc a c => simp [toAsm, asmOperands, Instr.opcode, assemble]
  | rsClr b | rdReg b => simp [toAsm, asmOperands, Instr.opcode, assemble]
  | rsNew fc kind p => simp [toAsm, asmOperands, Instr.opcode, assemble]
  | rsSetBit n v => simp [toAsm, asmOperands, Instr.opcode, assemble]
  | rsRstBit n | rsGetBit n => simp [toAsm, asmOperands, Instr.opcode, assemble]
  | _ => rfl

/-- Settles O6: every operand is read back from its line, and a mnemonic is found in one row of the map. -/
theorem assemblyLineNamesOneCommand : Obligations.AssemblyLineNamesOneCommand := by
  unfold Obligations.AssemblyLineNamesOneCommand
  exact ⟨assemble_toAsm, opcodeMnemonic_injective⟩

theorem truth_eq_false_iff (e : Byte) : truth e = false ↔ e = 0x00 := by simp [truth]

theorem truth_elem (b : Bool) : truth (elem b) = b := by cases b <;> rfl

theorem elem_eq (b : Bool) : elem b = 0x00 ∨ elem b = 0x01 := by
  cases b
  · exact .inl rfl
  · exact .inr rfl

/-- Settles O19: an element string is written bit by bit, and a bit has one of two bytes. -/
theorem elementBytesAreBits : Obligations.ElementBytesAreBits := by
  unfold Obligations.ElementBytesAreBits
  refine ⟨truth_eq_false_iff, rfl, rfl, truth_elem, fun b e he => ?_⟩
  obtain ⟨x, -, rfl⟩ := List.mem_map.mp he
  exact elem_eq x

end Sys2Proof.Machine
end

section
/-! PROOFS. The order of the tests (spec/60_exceptions.md R182): outside `EXEC` the faults of a command's own bytes
are a function of the command and the capacity, and they come before every test on the state. -/

namespace Sys2Proof.Machine

/-- The fault of values that cannot make a response in a block of capacity `cap` (R122). -/
def valuesFault (cap : Nat) : Values → Option Cause
  | .other => some .construction
  | .seq e => if e.length ≤ 8 * cap then none else some .capacity
  | .blob r => if r.length ≤ cap then none else some .capacity

/-- The fault that a command's own bytes have in a block of capacity `cap` (R182, tests 1 to 4). -/
def operandFault (cap : Nat) : Instr → Option Cause
  | .pack e => valuesFault cap (.seq e)
  | .unpack r => valuesFault cap (.blob r)
  | .rqNew fc _ _ => if fc = 1 ∨ fc = 2 then none else some .illOperand
  | .rsClr fc => if fc = 1 ∨ fc = 2 then none else some .illOperand
  | .rsNew fc kind p => if fc = 1 ∨ fc = 2 then valuesFault cap (valuesOfKind kind p) else some .illOperand
  | .rsSetBits e => valuesFault cap (.seq e)
  | .rsSetRaw r => valuesFault cap (.blob r)
  | .rsDec d => if d.length ≤ 1 + cap then none else some .capacity
  | .rdReg reg => if (regOfByte reg).isSome then none else some .illOperand
  | _ => none

/-- The causes that those tests can find. -/
def operandCauses : List Cause := [.illOperand, .construction, .capacity]

/-- Between `s` and `t` no fault of a command's own bytes has been taken. -/
def NoOperandFault (s t : State) : Prop := ∀ c ∈ operandCauses, ¬ Emitted s t (.fault c)

theorem noOperandFault_of_ok {s u : State} (p : List Byte) (h : u.res = s.res) :
    NoOperandFault s (emit ⟨.ok, p⟩ u) := by
  intro c _ hfault
  have hres : (emit ⟨.ok, p⟩ u).res = s.res ++ [⟨.ok, p⟩] := by rw [emit_res, h]
  exact nomatch (emitted_iff_of_res hres _).mp hfault

theorem noOperandFault_takeFault {c : Cause} (hc : c ∉ operandCauses) (s : State) :
    NoOperandFault s (takeFault c s) := by
  intro c' hc' hfault
  cases (emitted_iff_of_res (takeFault_res c s) _).mp hfault
  exact hc hc'

theorem noOperandFault_ite {P : Prop} [Decidable P] {s a b : State} (ha : NoOperandFault s a)
    (hb : NoOperandFault s b) : NoOperandFault s (if P then a else b) := by
  split
  · exact ha
  · exact hb

/-- `t` is how a command ends whose own bytes have the fault `f`: the fault is taken, or none of its kind is. -/
def EndsByOperands (s t : State) : Option Cause → Prop
  | some c => t = takeFault c s
  | none => NoOperandFault s t

/-- A test of the command's own bytes comes first (R182). -/
theorem endsByOperands_ite {P : Prop} [Decidable P] {s a : State} {c : Cause} {f : Option Cause}
    (ha : EndsByOperands s a f) :
    EndsByOperands s (if P then a else takeFault c s) (if P then f else some c) := by
  by_cases hP : P
  · rwa [if_pos hP, if_pos hP]
  · rw [if_neg hP, if_neg hP]; rfl

theorem finish_construct_endsByOperands (fc : Byte) (v : Values) (s : State) :
    EndsByOperands s (finish s (construct fc v s)) (valuesFault s.cfg.capBytes v) := by
  cases v with
  | seq e =>
    rw [finish_construct_seq]
    exact endsByOperands_ite (f := none) (noOperandFault_of_ok _ rfl)
  | blob r =>
    rw [finish_construct_blob]
    exact endsByOperands_ite (f := none) (noOperandFault_of_ok _ rfl)
  | other => rfl

/-- Every command but `EXEC` ends by its own bytes' fault, or by none of that kind. -/
theorem exec_endsByOperands {i : Instr} {s t : State} (hi : i ≠ .execute) (hexec : exec i s = .next t) :
    EndsByOperands s t (operandFault s.cfg.capBytes i) := by
  have hok (p : List Byte) (u : State) (hu : u.res = s.res) : NoOperandFault s (emit ⟨.ok, p⟩ u) :=
    noOperandFault_of_ok p hu
  have hnoInst : NoOperandFault s (takeFault .noInst s) := noOperandFault_takeFault (by decide) s
  have hindex : NoOperandFault s (takeFault .index s) := noOperandFault_takeFault (by decide) s
  have hframing : NoOperandFault s (takeFault .framing s) := noOperandFault_takeFault (by decide) s
  have hrange : NoOperandFault s (takeFault .range s) := noOperandFault_takeFault (by decide) s
  cases i with
  | pack e =>
    rw [exec_pack] at hexec; cases hexec
    exact endsByOperands_ite (f := none) (hok _ _ rfl)
  | unpack r =>
    rw [exec_unpack] at hexec; cases hexec
    exact endsByOperands_ite (f := none) (hok _ _ rfl)
  | rqNew fc a c =>
    rw [exec_rqNew] at hexec; cases hexec
    exact endsByOperands_ite (f := none) (hok _ _ rfl)
  | rqEnc =>
    rw [exec_rqEnc] at hexec; cases hexec
    exact noOperandFault_ite (hok _ _ rfl) hnoInst
  | rqDec d =>
    rw [exec_rqDec] at hexec; cases hexec
    refine noOperandFault_ite ?_ hnoInst
    cases requestFields d with
    | none => exact hframing
    | some f => exact hok _ _ rfl
  | rsClr fc =>
    rw [exec_rsClr] at hexec; cases hexec
    exact endsByOperands_ite (f := none) (hok _ _ rfl)
  | rsNew fc kind p =>
    rw [exec_rsNew] at hexec; cases hexec
    exact endsByOperands_ite (finish_construct_endsByOperands fc _ s)
  | rsGetBits =>
    rw [exec_rsGetBits] at hexec; cases hexec
    exact noOperandFault_ite (hok _ _ rfl) hnoInst
  | rsGetRaw =>
    rw [exec_rsGetRaw] at hexec; cases hexec
    exact noOperandFault_ite (hok _ _ rfl) hnoInst
  | rsGetBc =>
    rw [exec_rsGetBc] at hexec; cases hexec
    exact noOperandFault_ite (hok _ _ (holdByteCount_res s)) hnoInst
  | rsSetBits e =>
    rw [exec_rsSetBits] at hexec; cases hexec
    exact endsByOperands_ite (f := none) (noOperandFault_ite (hok _ _ rfl) hnoInst)
  | rsSetRaw r =>
    rw [exec_rsSetRaw] at hexec; cases hexec
    exact endsByOperands_ite (f := none) (noOperandFault_ite (hok _ _ rfl) hnoInst)
  | rsSetBit n v =>
    rw [exec_rsSetBit] at hexec; cases hexec
    exact noOperandFault_ite (noOperandFault_ite (hok _ _ rfl) hindex) hnoInst
  | rsRstBit n =>
    rw [exec_rsRstBit, exec_rsSetBit] at hexec; cases hexec
    exact noOperandFault_ite (noOperandFault_ite (hok _ _ rfl) hindex) hnoInst
  | rsGetBit n =>
    rw [exec_rsGetBit] at hexec; cases hexec
    refine noOperandFault_ite ?_ hnoInst
    split
    · exact hok _ _ rfl
    · exact hindex
  | rsEnc =>
    rw [exec_rsEnc] at hexec; cases hexec
    exact noOperandFault_ite (noOperandFault_ite (hok _ _ (holdByteCount_res s)) hrange) hnoInst
  | rsDec d =>
    cases d with
    | nil =>
      rw [exec_rsDec_nil] at hexec; cases hexec
      exact noOperandFault_ite hframing hnoInst
    | cons declared rest =>
      rw [exec_rsDec_cons] at hexec; cases hexec
      exact endsByOperands_ite (f := none) (noOperandFault_ite (hok _ _ rfl) hnoInst)
  | execute => exact absurd rfl hi
  | rdReg reg =>
    rw [exec_rdReg] at hexec; cases hexec
    cases hr : regOfByte reg with
    | none => simp [operandFault, hr, EndsByOperands]
    | some r => simpa [operandFault, hr, EndsByOperands] using hok _ _ rfl

/-- Settles O20: the fault of a command's own bytes is one function of the command and the capacity in both runs. -/
theorem operandFaultsComeBeforeStateFaults : Obligations.OperandFaultsComeBeforeStateFaults := by
  unfold Obligations.OperandFaultsComeBeforeStateFaults
  intro i s t c hi hc hexec hfault s' t' hcfg hexec'
  have hends := exec_endsByOperands hi hexec
  have hends' := exec_endsByOperands hi hexec'
  rw [hcfg] at hends'
  cases hf : operandFault s.cfg.capBytes i with
  | none => rw [hf] at hends; exact absurd hfault (hends c hc)
  | some c' =>
    rw [hf] at hends hends'
    obtain rfl : t = takeFault c' s := hends
    obtain rfl : t' = takeFault c' s' := hends'
    cases (emitted_iff_of_res (takeFault_res c' s) _).mp hfault
    exact ⟨[], takeFault_res c s'⟩

end Sys2Proof.Machine
end

section
/-! PROOFS. The response over whole commands (spec/10_state.md R29, R37): what each command
leaves of it where it ends with status `OK`, and that otherwise it leaves it as it was. -/

namespace Sys2Proof.Machine

section OkEnds
variable {s t : State} (hok : Emitted s t .ok)
include hok

theorem rqNew_of_ok {fc : Byte} {a c : Half} (h : exec (.rqNew fc a c) s = .next t) :
    (fc = 1 ∨ fc = 2) ∧ t = emit ⟨.ok, []⟩ (openRequest fc a c s) := by
  rw [exec_rqNew] at h; cases h
  have hfc := (emitted_ok_ite_takeFault.mp hok).1
  exact ⟨hfc, if_pos hfc⟩

theorem rsGetBits_of_ok (h : exec .rsGetBits s = .next t) :
    t = emit ⟨.ok, (bitsView s).map elem⟩ (holdBits s) := by
  rw [exec_rsGetBits] at h; cases h
  exact if_pos (emitted_ok_ite_takeFault.mp hok).1

theorem rsGetRaw_of_ok (h : exec .rsGetRaw s = .next t) : t = emit ⟨.ok, rawView s⟩ (holdRaw s) := by
  rw [exec_rsGetRaw] at h; cases h
  exact if_pos (emitted_ok_ite_takeFault.mp hok).1

theorem rsGetBc_of_ok (h : exec .rsGetBc s = .next t) : t = emit ⟨.ok, be16 (byteCount s)⟩ (holdByteCount s) := by
  rw [exec_rsGetBc] at h; cases h
  exact if_pos (emitted_ok_ite_takeFault.mp hok).1

theorem rsGetBit_of_ok {n : Half} (h : exec (.rsGetBit n) s = .next t) : ∃ p, t = emit ⟨.ok, p⟩ (holdBits s) := by
  rw [exec_rsGetBit] at h; cases h
  obtain ⟨hv, hrest⟩ := emitted_ok_ite_takeFault.mp hok
  rw [if_pos hv]
  split at hrest
  case isTrue hn => exact ⟨_, dif_pos hn⟩
  case isFalse => cases (emitted_iff_of_res (takeFault_res .index s) _).mp hrest

theorem rsEnc_of_ok (h : exec .rsEnc s = .next t) :
    t = emit ⟨.ok, BitVec.ofNat 8 (byteCount s) :: rawView s⟩ (holdRaw (holdByteCount s)) := by
  rw [exec_rsEnc] at h; cases h
  obtain ⟨hv, hrest⟩ := emitted_ok_ite_takeFault.mp hok
  rw [if_pos hv, if_pos (emitted_ok_ite_takeFault.mp hrest).1]

/-- A replacement of a view has found a response (R126, R127, R132). -/
theorem rsV_of_ok_of_setter {i : Instr} (hi : i.opcode ∈ [Opcode.rsSetBits, .rsSetRaw, .rsDec])
    (h : exec i s = .next t) : s.rsV = true := by
  cases i with
  | rsSetBits e =>
    rw [exec_rsSetBits] at h; cases h
    exact (emitted_ok_ite_takeFault.mp (emitted_ok_ite_takeFault.mp hok).2).1
  | rsSetRaw r =>
    rw [exec_rsSetRaw] at h; cases h
    exact (emitted_ok_ite_takeFault.mp (emitted_ok_ite_takeFault.mp hok).2).1
  | rsDec d =>
    cases d with
    | nil =>
      rw [exec_rsDec_nil] at h; cases h
      exact (emitted_ok_ite_takeFault.mp hok).1
    | cons declared rest =>
      rw [exec_rsDec_cons] at h; cases h
      exact (emitted_ok_ite_takeFault.mp (emitted_ok_ite_takeFault.mp hok).2).1
  | _ => simp [Instr.opcode] at hi

/-- With status `OK` `EXEC` has passed its tests (R150). -/
theorem execute_passed_of_ok (h : exec .execute s = .next t) :
    s.rqV = true ∧ (1 ≤ s.rqCount.toNat ∧ s.rqCount.toNat ≤ 2000) ∧ validateAnswer s = true ∧ t = executeFetch s := by
  rw [exec_execute] at h; cases h
  obtain ⟨hv, hrest⟩ := emitted_ok_ite_takeFault.mp hok
  rw [if_pos hv]
  split_ifs at hrest ⊢ with hcount hvalid
  · exact ⟨hv, hcount, hvalid, rfl⟩
  · exact nomatch (emitted_iff_of_res (emit_res _ _) _).mp hrest
  · exact nomatch (emitted_iff_of_res (emit_res _ _) _).mp hrest

end OkEnds

theorem docState_of_bits {s : State} {b : List Bool} (hv : s.rsV = true) (hbits : s.bits = some b)
    (hraw : s.raw = none) : s.docState = some (.hasBits b) := by
  simp [State.docState, hv, hbits, hraw]

theorem docState_of_raw {s : State} {r : List Byte} (hv : s.rsV = true) (hbits : s.bits = none)
    (hraw : s.raw = some r) : s.docState = some (.hasRaw r) := by
  simp [State.docState, hv, hbits, hraw]

/-- Settles O45: each leaves one view, or none, of a response that is there. -/
theorem mutatorsLeaveOneAuthoritativeView : Obligations.MutatorsLeaveOneAuthoritativeView := by
  unfold Obligations.MutatorsLeaveOneAuthoritativeView
  intro i s t h hok
  refine ⟨?_, ?_, ?_, ?_, ?_, ?_, ?_, ?_⟩
  · rintro fc rfl
    rw [rsClr_of_ok hok h]; rfl
  · rintro fc p rfl
    rw [rsNew_bits_of_ok hok h]
    exact docState_of_bits rfl rfl rfl
  · rintro fc p rfl
    rw [rsNew_raw_of_ok hok h]
    exact docState_of_raw rfl rfl rfl
  · rintro e rfl
    have hv := rsV_of_ok_of_setter hok (by simp [Instr.opcode]) h
    rw [rsSetBits_of_ok hok h]
    exact docState_of_bits hv rfl rfl
  · rintro r rfl
    have hv := rsV_of_ok_of_setter hok (by simp [Instr.opcode]) h
    rw [rsSetRaw_of_ok hok h]
    exact docState_of_raw hv rfl rfl
  · rintro n v rfl
    obtain ⟨hv, -, rfl⟩ := rsSetBit_of_ok hok h
    exact docState_of_bits hv rfl rfl
  · rintro n rfl
    obtain ⟨hv, -, rfl⟩ := rsSetBit_of_ok hok (exec_rsRstBit n s ▸ h)
    exact docState_of_bits hv rfl rfl
  · rintro d rfl
    have hv := rsV_of_ok_of_setter hok (by simp [Instr.opcode]) h
    obtain ⟨declared, rest, rfl, rfl⟩ := rsDec_of_ok hok h
    exact docState_of_raw hv rfl rfl

/-- The four flags of the response (R37). -/
theorem sameFlags_of_sameResponse {s t : State} (h : SameResponse s t) :
    t.rsV = s.rsV ∧ t.bv = s.bv ∧ t.rv = s.rv ∧ t.cv = s.cv := by
  obtain ⟨hv, -, hbits, hraw, hbc⟩ := h
  simp [State.bv, State.rv, State.cv, hv, hbits, hraw, hbc]

/-- Of the three ways to end, only a return writes the response (R170, R179, R183). -/
theorem sameResponse_of_emitted_ne_ok {i : Instr} {s t : State} {st : Status} (hst : st ≠ .ok) (h : exec i s = .next t)
    (hemit : Emitted s t st) : SameResponse s t := by
  cases st with
  | ok => exact absurd rfl hst
  | fault c => exact sameResponse_of_emitted_fault h hemit
  | exc o =>
    obtain ⟨u, r, hu, hres, -, -, hexc, -⟩ := everyCommandEmitsOneRecord i s
    cases h.symm.trans hu
    exact (hexc o ((emitted_iff_of_res hres _).mp hemit)).2.2.2

/-- Settles O47: with status `OK` each command has ended in one operation, which gives its row of the table. -/
theorem flagTable : Obligations.FlagTable := by
  unfold Obligations.FlagTable
  refine fun i s t h => ⟨fun hok => ⟨?_, ?_, ?_, ?_, ?_, ?_, ?_, ?_, ?_, fun hi => ?_⟩, fun st hst hemit =>
    sameFlags_of_sameResponse (sameResponse_of_emitted_ne_ok hst h hemit)⟩
  · rintro ⟨fc, rfl⟩
    rw [rsClr_of_ok hok h]; exact ⟨rfl, rfl, rfl, rfl⟩
  · rintro ⟨fc, p, rfl⟩
    rw [rsNew_bits_of_ok hok h]; exact ⟨rfl, rfl, rfl, rfl⟩
  · rintro ⟨fc, p, rfl⟩
    rw [rsNew_raw_of_ok hok h]; exact ⟨rfl, rfl, rfl, rfl⟩
  · rintro (rfl | ⟨n, rfl⟩)
    · rw [rsGetBits_of_ok hok h]; exact ⟨rfl, rfl, rfl, rfl⟩
    · obtain ⟨p, rfl⟩ := rsGetBit_of_ok hok h; exact ⟨rfl, rfl, rfl, rfl⟩
  · rintro rfl
    rw [rsGetRaw_of_ok hok h]; exact ⟨rfl, rfl, rfl, rfl⟩
  · rintro (rfl | rfl) hinv
    · rw [rsGetBc_of_ok hok h, holdByteCount_of_inv hinv]; exact ⟨rfl, rfl, rfl, rfl⟩
    · rw [rsEnc_of_ok hok h, holdByteCount_of_inv hinv]; exact ⟨rfl, rfl, rfl, rfl⟩
  · rintro (⟨e, rfl⟩ | ⟨n, v, rfl⟩ | ⟨n, rfl⟩)
    · rw [rsSetBits_of_ok hok h]; exact ⟨rfl, rfl, rfl, rfl⟩
    · obtain ⟨-, -, rfl⟩ := rsSetBit_of_ok hok h; exact ⟨rfl, rfl, rfl, rfl⟩
    · obtain ⟨-, -, rfl⟩ := rsSetBit_of_ok hok (exec_rsRstBit n s ▸ h); exact ⟨rfl, rfl, rfl, rfl⟩
  · rintro (⟨r, rfl⟩ | ⟨d, rfl⟩)
    · rw [rsSetRaw_of_ok hok h]; exact ⟨rfl, rfl, rfl, rfl⟩
    · obtain ⟨_, _, -, rfl⟩ := rsDec_of_ok hok h; exact ⟨rfl, rfl, rfl, rfl⟩
  · rintro rfl
    cases hvalues : valuesAnswer (askValidate s) with
    | seq e =>
      rw [execute_seq_of_ok hok h hvalues]
      exact ⟨rfl, rfl, .inl ⟨⟨e, rfl⟩, rfl, rfl⟩⟩
    | blob r =>
      rw [execute_blob_of_ok hok h hvalues]
      exact ⟨rfl, rfl, .inr ⟨⟨r, rfl⟩, rfl, rfl⟩⟩
    | other =>
      obtain ⟨-, -, -, rfl⟩ := execute_passed_of_ok hok h
      rw [executeFetch_of_other hvalues] at hok
      cases (emitted_iff_of_res (s := s) (takeFault_res .construction _) _).mp hok
  · exact sameFlags_of_sameResponse ((exec_commandWrites h).frame hi)

end Sys2Proof.Machine
end

section
/-! PROOFS. Twice the same (spec/10_state.md R36, 20_memory.md R55): a construction leaves the same response whatever
stood there before, and an accessor issued again finds what it left and holds nothing new. -/

namespace Sys2Proof.Machine

/-- What a construction with status `OK` leaves depends on the tag and the values alone (R36, R122). -/
theorem sameResponse_finish_construct {fc : Byte} {v : Values} {s s' : State} (hcfg : s'.cfg = s.cfg)
    (hok : Emitted s (finish s (construct fc v s)) .ok) :
    SameResponse (finish s (construct fc v s)) (finish s' (construct fc v s')) := by
  cases v with
  | seq e =>
    rw [finish_construct_seq] at hok
    have hlen := (emitted_ok_ite_takeFault.mp hok).1
    rw [finish_construct_seq, if_pos hlen, finish_construct_seq, hcfg, if_pos hlen]
    exact ⟨rfl, rfl, rfl, rfl, rfl⟩
  | blob r =>
    rw [finish_construct_blob] at hok
    have hlen := (emitted_ok_ite_takeFault.mp hok).1
    rw [finish_construct_blob, if_pos hlen, finish_construct_blob, hcfg, if_pos hlen]
    exact ⟨rfl, rfl, rfl, rfl, rfl⟩
  | other => cases (emitted_iff_of_res (takeFault_res .construction s) _).mp hok

/-- With the same request and the same answers `EXEC` constructs the same response (R36, R150). -/
theorem sameResponse_execute {s s' t t' : State} (hcfg : s'.cfg = s.cfg) (h : exec .execute s = .next t)
    (h' : exec .execute s' = .next t') (hok : Emitted s t .ok) (hreq : SameRequest s s')
    (hvalidate : validateAnswer s' = validateAnswer s)
    (hvalues : valuesAnswer (askValidate s') = valuesAnswer (askValidate s)) : SameResponse t t' := by
  obtain ⟨hrqV, hrqFc, -, hrqCount⟩ := hreq
  obtain ⟨hv, ⟨hmin, hmax⟩, hvalid, rfl⟩ := execute_passed_of_ok hok h
  have hfetch := exec_execute_of_valid (s := s') (hrqV.trans hv) (by rwa [hrqCount]) (by rwa [hrqCount])
    (hvalidate.trans hvalid)
  cases h'.symm.trans hfetch
  rw [executeFetch, executeFetch, hrqFc, hvalues]
  exact sameResponse_finish_construct hcfg hok

/-- Settles O50: every test a construction passes is on the command, the configuration or the request. -/
theorem constructionLeavesNothingOfTheOldInstance : Obligations.ConstructionLeavesNothingOfTheOldInstance := by
  unfold Obligations.ConstructionLeavesNothingOfTheOldInstance
  intro i s s' t t' hcfg h h' hok
  refine ⟨?_, ?_, ?_⟩
  · rintro ⟨fc, a, c, rfl⟩
    obtain ⟨hfc, rfl⟩ := rqNew_of_ok hok h
    rw [exec_rqNew, if_pos hfc] at h'; cases h'
    exact ⟨rfl, rfl, rfl, rfl⟩
  · rintro (⟨fc, rfl⟩ | ⟨fc, k, p, rfl⟩)
    · rw [exec_rsClr] at h h'; cases h; cases h'
      have hfc := (emitted_ok_ite_takeFault.mp hok).1
      rw [if_pos hfc, if_pos hfc]
      exact ⟨rfl, rfl, rfl, rfl, rfl⟩
    · rw [exec_rsNew] at h h'; cases h; cases h'
      obtain ⟨hfc, hmade⟩ := emitted_ok_ite_takeFault.mp hok
      rw [if_pos hfc, if_pos hfc]
      exact sameResponse_finish_construct hcfg hmade
  · rintro rfl
    exact sameResponse_execute hcfg h h' hok

/-- A command that has led from `s` to `t` does so again with the same record, and nothing else changes. -/
def RepeatsItself (i : Instr) (s t : State) : Prop := ∃ r, t.res = s.res ++ [r] ∧ exec i t = .next (emit r t)

/-- The second time a fault's bit is set already (R30, R183). -/
theorem takeFault_takeFault (c : Cause) (s : State) :
    takeFault c (takeFault c s) = emit ⟨.fault c, []⟩ (takeFault c s) := by
  simp [takeFault, emit, BitVec.or_assoc]

/-- A test that was failed is failed again. -/
theorem repeatsItself_takeFault {i : Instr} {s : State} {c : Cause}
    (h : exec i (takeFault c s) = .next (takeFault c (takeFault c s))) : RepeatsItself i s (takeFault c s) :=
  ⟨⟨.fault c, []⟩, rfl, takeFault_takeFault c s ▸ h⟩

/-- The cached count is what it was when it was computed (R120). -/
@[simp] theorem byteCount_holdByteCount (s : State) : byteCount (holdByteCount s) = byteCount s := by
  rw [byteCount, holdByteCount_bc]

/-- A response of at most 255 bytes is returned after their number (R131). -/
theorem exec_rsEnc_of_count_le {s : State} (hv : s.rsV = true) (hcount : byteCount s ≤ 255) :
    exec .rsEnc s =
      .next (emit ⟨.ok, BitVec.ofNat 8 (byteCount s) :: rawView s⟩ (holdRaw (holdByteCount s))) := by
  rw [exec_rsEnc, if_pos hv, if_pos hcount]

/-- An accessor finds the view or the count it has just held, with the value it returned; a fault finds its cause again
(R55). -/
theorem accessor_repeatsItself {i : Instr} {s t : State}
    (hi : i.opcode ∈ [Opcode.rsGetBits, .rsGetRaw, .rsGetBc, .rsGetBit, .rsEnc]) (h : exec i s = .next t) :
    RepeatsItself i s t := by
  cases i with
  | rsGetBits =>
    rw [exec_rsGetBits] at h; cases h
    split_ifs with hv
    · refine ⟨_, rfl, ?_⟩
      rw [exec_rsGetBits_of_instance (by simpa using hv), bitsView_emit, bitsView_holdBits, holdBits_of_bits rfl]
    · exact repeatsItself_takeFault ((exec_rsGetBits _).trans (congrArg _ (if_neg hv)))
  | rsGetRaw =>
    rw [exec_rsGetRaw] at h; cases h
    split_ifs with hv
    · refine ⟨_, rfl, ?_⟩
      rw [exec_rsGetRaw_of_instance (by simpa using hv), rawView_emit, rawView_holdRaw, holdRaw_of_raw rfl]
    · exact repeatsItself_takeFault ((exec_rsGetRaw _).trans (congrArg _ (if_neg hv)))
  | rsGetBc =>
    rw [exec_rsGetBc] at h; cases h
    split_ifs with hv
    · refine ⟨_, by rw [emit_res, holdByteCount_res], ?_⟩
      rw [exec_rsGetBc_of_instance (by simpa using hv), byteCount_emit, byteCount_holdByteCount,
        holdByteCount_of_bc (by rw [emit_bc, holdByteCount_bc])]
    · exact repeatsItself_takeFault ((exec_rsGetBc _).trans (congrArg _ (if_neg hv)))
  | rsGetBit n =>
    rw [exec_rsGetBit] at h; cases h
    split_ifs with hv hn
    · refine ⟨_, rfl, ?_⟩
      rw [exec_rsGetBit_of_getElem? (b := (bitsView s)[n.toNat]) (by simpa using hv) (by simp [hn]),
        holdBits_of_bits rfl]
    · exact repeatsItself_takeFault ((exec_rsGetBit n _).trans (congrArg _ ((if_pos hv).trans (dif_neg hn))))
    · exact repeatsItself_takeFault ((exec_rsGetBit n _).trans (congrArg _ (if_neg hv)))
  | rsEnc =>
    rw [exec_rsEnc] at h; cases h
    split_ifs with hv hcount
    · refine ⟨_, by rw [emit_res, holdRaw_res, holdByteCount_res], ?_⟩
      rw [exec_rsEnc_of_count_le (by simpa using hv) (by simpa using hcount), byteCount_emit, byteCount_holdRaw,
        byteCount_holdByteCount, rawView_emit, rawView_holdRaw, rawView_holdByteCount,
        holdByteCount_of_bc (by rw [emit_bc, holdRaw_bc, holdByteCount_bc]), holdRaw_of_raw rfl]
    · exact repeatsItself_takeFault ((exec_rsEnc _).trans (congrArg _ ((if_pos hv).trans (if_neg hcount))))
    · exact repeatsItself_takeFault ((exec_rsEnc _).trans (congrArg _ (if_neg hv)))
  | _ => simp [Instr.opcode] at hi

/-- Settles O49: the second run is the first run's record once more. -/
theorem accessorsAreIdempotent : Obligations.AccessorsAreIdempotent := by
  unfold Obligations.AccessorsAreIdempotent
  intro i s t u hi h hu
  obtain ⟨r, hres, hagain⟩ := accessor_repeatsItself hi h
  cases hu.symm.trans hagain
  exact ⟨r, hres, rfl⟩

end Sys2Proof.Machine
end
